-- ==== Sys2Proof/Word.lean ====
section
/-! DEFINITION. The one word of the hardware: a byte, "an unsigned integer 0..255" (00_scope.md R6). -/

namespace Sys2Proof

/-- A byte of the wire, of the buffer or of an operand (00_scope.md R5, R6). -/
abbrev Byte := BitVec 8

end Sys2Proof
end

