-- ==== Sys2Proof/Config.lean ====
section
/-! DEFINITION. The parameters and constants of 00_scope.md R5 and 30_encoding.md R70, R72: what is fixed for the
machine and never changed by an operation. -/

namespace Sys2Proof

/-- The capacity of the receive buffer in bytes: a natural number, or no bound (`inf`) as in the source (R5, D4). -/
inductive Capacity where
  | finite (bytes : Nat)
  | inf
  deriving DecidableEq, Repr

/-- The one parameter the spec leaves OPEN (R5, D4). It is a model argument: no step writes it (log 4). -/
structure Config where
  rxCap : Capacity
  deriving DecidableEq, Repr

/-- The default of R5: 65539 = 0xFFFF + 4, the largest frame a 16-bit length can declare. -/
def Config.default : Config := { rxCap := .finite 65539 }

/-- `DELIM`, the frame delimiter (R5, R100). -/
abbrev delim : Byte := 0x7E
/-- `ESC`, the escape marker (R5, R100). -/
abbrev escByte : Byte := 0x7D
/-- `XON` (R5, R100). -/
abbrev xon : Byte := 0x11
/-- `XOFF` (R5, R100). -/
abbrev xoff : Byte := 0x13
/-- `STUFF_MASK`: the stuffing transform is exclusive-or with it (R5, R100). -/
abbrev stuffMask : Byte := 0x20
/-- `PAYLOAD_MAX`: the largest payload the builder serializes (R5). -/
abbrev payloadMax : Nat := 65535
/-- `INT_W_MAX`: the largest explicit width of an integer parameter, in bytes (R5). -/
abbrev intWMax : Nat := 8

/-- `BROADCAST`, the default `dest` of BUILD.REMOTE (R72). -/
abbrev broadcast : Vector Byte 8 := #v[0x00, 0x00, 0x00, 0x00, 0x00, 0x00, 0xFF, 0xFF]
/-- `UNKNOWN_NET`, the default `net` of BUILD.REMOTE (R72). -/
abbrev unknownNet : BitVec 16 := 0xFFFE
/-- `COORDINATOR`: not used by the block; a value the host may put in `dest` (R72). -/
abbrev coordinator : Vector Byte 8 := #v[0x00, 0x00, 0x00, 0x00, 0x00, 0x00, 0x00, 0x00]
/-- `REMOTE_OPT_DEFAULT`, the default `opt` of BUILD.REMOTE (R72). -/
abbrev remoteOptDefault : Byte := 0x02

/-- The names of the frame-type registry (R70). -/
inductive FrameTypeName where
  | localCommand | localCommandQueued | transmit | commandFrame | remoteCommand | createSourceRoute
  | localCommandResponse | modemStatus | transmitStatus | receivePacket | receiveIndicator | ioSample
  | sensorRead | nodeIdentification | remoteCommandResponse | firmwareUpdateStatus | routeRecordIndicator
  | routeRequestIndicator
  deriving DecidableEq, Repr

/-- The frame-type registry (R70): the block uses the byte as data only. -/
def FrameTypeName.byte : FrameTypeName → Byte
  | .localCommand => 0x08
  | .localCommandQueued => 0x09
  | .transmit => 0x10
  | .commandFrame => 0x11
  | .remoteCommand => 0x17
  | .createSourceRoute => 0x21
  | .localCommandResponse => 0x88
  | .modemStatus => 0x8A
  | .transmitStatus => 0x8B
  | .receivePacket => 0x90
  | .receiveIndicator => 0x91
  | .ioSample => 0x92
  | .sensorRead => 0x94
  | .nodeIdentification => 0x95
  | .remoteCommandResponse => 0x97
  | .firmwareUpdateStatus => 0xA0
  | .routeRecordIndicator => 0xA1
  | .routeRequestIndicator => 0xA3

/-- `RESERVED`, the four byte values the stuffer escapes (R100). -/
def isReserved (b : Byte) : Bool := b == delim || b == escByte || b == xon || b == xoff

/-- The four frame types `BUILD` admits: those whose layout the source gives (R61, R67). -/
def isBuildable (ft : Byte) : Bool := ft == 0x08 || ft == 0x09 || ft == 0x10 || ft == 0x17

end Sys2Proof
end

