-- ==== Sys2Proof/Syntax.lean ====
section
/-! DEFINITION. The instructions as syntax: one constructor per row of spec/opcode_table.json (30_encoding.md R60,
R61, R64, R65, R68), with the build descriptor (R66) as the operand of the BUILD rows. -/

namespace Sys2Proof

/-- The descriptor's 2-bit `param_kind` (R66): 0 `NONE`, 1 `BYTES`, 2 `INT_AUTO`, 3 `INT_SIZED`. -/
inductive ParamKind where
  | absent
  | bytes
  | intAuto
  | intSized
  deriving DecidableEq, Repr

/-- The build descriptor (R66), field by field. A field a variant does not use, and a value whose `…Given` bit is
clear, may hold anything. It is an operand of the operation, not state (R33, R66; log 8). -/
structure Descriptor where
  noesc : Bool := false
  fidGiven : Bool := false
  fid : Byte := 0
  destGiven : Bool := false
  dest : Vector Byte 8 := coordinator
  netGiven : Bool := false
  net : BitVec 16 := 0
  optGiven : Bool := false
  opt : Byte := 0
  radiusGiven : Bool := false
  radius : Byte := 0
  name : List Byte := []
  paramKind : ParamKind := .absent
  paramBytes : List Byte := []
  paramInt : BitVec 64 := 0
  paramW : BitVec 4 := 0
  data : List Byte := []
  deriving DecidableEq, Repr

/-- The descriptor in which nothing is given: an absent qualifier leaves its bit 0 (R77). -/
def Descriptor.absent : Descriptor := {}

/-- One constructor per row of the opcode table. -/
inductive Instr where
  /-- `NOP` (R200); the immediate is ignored. -/
  | nop (imm : Byte)
  /-- `RXB b` (R130). -/
  | rxb (b : Byte)
  /-- `RXCLR` (R202); the immediate is ignored. -/
  | rxclr (imm : Byte)
  /-- `STUFF b` (R104). -/
  | stuff (b : Byte)
  /-- `BUILD.LOCAL` (R170). -/
  | buildLocal (d : Descriptor)
  /-- `BUILD.LOCALQ` (R171). -/
  | buildLocalq (d : Descriptor)
  /-- `BUILD.TX` (R172). -/
  | buildTx (d : Descriptor)
  /-- `BUILD.REMOTE` (R173). -/
  | buildRemote (d : Descriptor)
  /-- `BUILD` with a frame type other than the four (R174); the descriptor is not looked at. -/
  | buildOther (ft : Byte)
  /-- `FIDRST` (R203); the immediate is ignored. -/
  | fidrst (imm : Byte)
  /-- Operation codes 6 (`seven = false`) and 7 (`seven = true`) (R201). -/
  | illegal (seven : Bool) (imm : Byte)
  /-- `UNESC.XOR` on wire byte `b` (R101). -/
  | unescXor (b : Byte)
  /-- `UNESC.MARK` (R101); its byte is 0x7D. -/
  | unescMark
  /-- `UNESC.PASS` on wire byte `b` (R101). -/
  | unescPass (b : Byte)
  /-- `STUFF.DELIM` (R104). -/
  | stuffDelim
  /-- `STUFF.ESC` (R104). -/
  | stuffEsc
  /-- `STUFF.XON` (R104). -/
  | stuffXon
  /-- `STUFF.XOFF` (R104). -/
  | stuffXoff
  /-- `STUFF.PASS` on byte `b` (R104). -/
  | stuffPass (b : Byte)
  /-- `ASM.START` (R131); its input is `(0x7E, 0)`. -/
  | asmStart
  /-- `ASM.DROP` on `(c, e)` (R132). -/
  | asmDrop (e : Bool) (c : Byte)
  /-- `ASM.LEN` on `(c, e)` (R133). -/
  | asmLen (e : Bool) (c : Byte)
  /-- `ASM.BODY` on `(c, e)` (R134). -/
  | asmBody (e : Bool) (c : Byte)
  /-- `ASM.CKSUM` on `(c, e)` (R135). -/
  | asmCksum (e : Bool) (c : Byte)
  /-- `ASM.HOLD` on `(c, e)` (R136). -/
  | asmHold (e : Bool) (c : Byte)
  deriving DecidableEq, Repr

/-- The names of the opcode table's rows. -/
inductive RowName where
  | nop | rxb | rxclr | stuff | buildLocal | buildLocalq | buildTx | buildRemote | buildOther | fidrst | illegal
  | unescXor | unescMark | unescPass
  | stuffDelim | stuffEsc | stuffXon | stuffXoff | stuffPass
  | asmStart | asmDrop | asmLen | asmBody | asmCksum | asmHold
  deriving DecidableEq, Repr

/-- The row an instruction belongs to. -/
def Instr.row : Instr → RowName
  | .nop _ => .nop
  | .rxb _ => .rxb
  | .rxclr _ => .rxclr
  | .stuff _ => .stuff
  | .buildLocal _ => .buildLocal
  | .buildLocalq _ => .buildLocalq
  | .buildTx _ => .buildTx
  | .buildRemote _ => .buildRemote
  | .buildOther _ => .buildOther
  | .fidrst _ => .fidrst
  | .illegal _ _ => .illegal
  | .unescXor _ => .unescXor
  | .unescMark => .unescMark
  | .unescPass _ => .unescPass
  | .stuffDelim => .stuffDelim
  | .stuffEsc => .stuffEsc
  | .stuffXon => .stuffXon
  | .stuffXoff => .stuffXoff
  | .stuffPass _ => .stuffPass
  | .asmStart => .asmStart
  | .asmDrop _ _ => .asmDrop
  | .asmLen _ _ => .asmLen
  | .asmBody _ _ => .asmBody
  | .asmCksum _ _ => .asmCksum
  | .asmHold _ _ => .asmHold

/-- An operation of the port (format OP11): what the host presents (R60). The other rows are micro-operations, cases
of RXB and STUFF (00_scope.md R2, R8). -/
def Instr.isOperation : Instr → Bool
  | .nop _ | .rxb _ | .rxclr _ | .stuff _ | .buildLocal _ | .buildLocalq _ | .buildTx _ | .buildRemote _
  | .buildOther _ | .fidrst _ | .illegal _ _ => true
  | .unescXor _ | .unescMark | .unescPass _ | .stuffDelim | .stuffEsc | .stuffXon | .stuffXoff | .stuffPass _
  | .asmStart | .asmDrop _ _ | .asmLen _ _ | .asmBody _ _ | .asmCksum _ _ | .asmHold _ _ => false

end Sys2Proof
end

