-- ==== Sys2Proof/WellFormed.lean ====
section
/-! DEFINITION. The terms of Instr that stand for a row's words: where rows are "tried in the order given" (30_encoding.md
section 3), an earlier row's word is no word of a later row. -/

namespace Sys2Proof

/-- `BUILD.other` is the remainder of operation code 4: any byte but the four admitted (R61, R74). -/
def wfBuildOther (ft : Byte) : Bool := !isBuildable ft

/-- `UNESC.PASS` is tried after `UNESC.MARK`: its byte is not 0x7D (R64). -/
def wfUnescPass (b : Byte) : Bool := b != escByte

/-- `STUFF.PASS` is tried after the four reserved rows: its byte is not reserved (R65). -/
def wfStuffPass (b : Byte) : Bool := !isReserved b

/-- `ASM.DROP` is tried after `ASM.START`: its input is not an unescaped delimiter (R68). -/
def wfAsmDrop (e : Bool) (c : Byte) : Bool := e || c != delim

/-- The check of an instruction; operands of every other row may hold any value. -/
def Instr.WellFormed : Instr → Bool
  | .buildOther ft => wfBuildOther ft
  | .unescPass b => wfUnescPass b
  | .stuffPass b => wfStuffPass b
  | .asmDrop e c => wfAsmDrop e c
  | .nop _ | .rxb _ | .rxclr _ | .stuff _ | .buildLocal _ | .buildLocalq _ | .buildTx _ | .buildRemote _
  | .fidrst _ | .illegal _ _ | .unescXor _ | .unescMark | .stuffDelim | .stuffEsc | .stuffXon | .stuffXoff
  | .asmStart | .asmLen _ _ | .asmBody _ _ | .asmCksum _ _ | .asmHold _ _ => true

end Sys2Proof
end

