-- ==== Sys2Proof/Decode.lean ====
section
/-! DEFINITION. Decoding and encoding of the four formats OP11, U9, S8, A12 (30_encoding.md R60, R61, R64, R65, R68;
44_control.md R204), and the opcode table's match and mask rows as data. -/

namespace Sys2Proof

/-- A key of one of the four formats of the opcode table; an operation word comes with its descriptor (R204). -/
inductive Encoded where
  | op11 (w : BitVec 11) (d : Descriptor)
  | u9 (k : BitVec 9)
  | s8 (k : BitVec 8)
  | a12 (k : BitVec 12)
  deriving DecidableEq, Repr

/-- Why a key is rejected. -/
inductive DecodeError where
  /-- An A12 key with state code 5, 6 or 7: no row matches (R68). -/
  | noAssemblerRow (k : BitVec 12)
  deriving DecidableEq, Repr

/-- `imm = w[7:0]` (R60). -/
def opImm (w : BitVec 11) : Byte := w.extractLsb' 0 8

/-- `BUILD ft`: four admitted values of `imm`, every other one is the refused remainder (R61). -/
def decodeBuild (ft : Byte) (d : Descriptor) : Instr :=
  if ft = 0x08 then .buildLocal d
  else if ft = 0x09 then .buildLocalq d
  else if ft = 0x10 then .buildTx d
  else if ft = 0x17 then .buildRemote d
  else .buildOther ft

/-- The dispatch of an operation word by `op = w[10:8]`; every word of the 2048 has a meaning (R204). -/
def decodeOp11 (w : BitVec 11) (d : Descriptor) : Instr :=
  match (w.extractLsb' 8 3).toNat with
  | 0 => .nop (opImm w)
  | 1 => .rxb (opImm w)
  | 2 => .rxclr (opImm w)
  | 3 => .stuff (opImm w)
  | 4 => decodeBuild (opImm w) d
  | 5 => .fidrst (opImm w)
  | 6 => .illegal false (opImm w)
  | _ => .illegal true (opImm w)

/-- The unstuffer key `{rx_esc, b[7:0]}` (R64). -/
def u9Key (esc : Bool) (b : Byte) : BitVec 9 := BitVec.cons esc b

/-- The unstuffer's case, tried in the order XOR, MARK, PASS (R64, R217 point 3). -/
def decodeU9 (k : BitVec 9) : Instr :=
  if k.msb then .unescXor (k.extractLsb' 0 8)
  else if k.extractLsb' 0 8 = escByte then .unescMark
  else .unescPass (k.extractLsb' 0 8)

/-- The stuffer's case (R65). -/
def decodeS8 (b : BitVec 8) : Instr :=
  if b = delim then .stuffDelim
  else if b = escByte then .stuffEsc
  else if b = xon then .stuffXon
  else if b = xoff then .stuffXoff
  else .stuffPass b

/-- The assembler key `{rx_state[2:0], e, c[7:0]}` (R68). -/
def a12Key (code : BitVec 3) (e : Bool) (c : Byte) : BitVec 12 := code ++ BitVec.cons e c

/-- The assembler's case: the state's row, and in Empty START before DROP (R68, R217 point 4). -/
def decodeA12 (k : BitVec 12) : Except DecodeError Instr :=
  match (k.extractLsb' 9 3).toNat with
  | 0 => .ok (if k = 0x07E then .asmStart else .asmDrop (k.getLsbD 8) (k.extractLsb' 0 8))
  | 1 => .ok (.asmLen (k.getLsbD 8) (k.extractLsb' 0 8))
  | 2 => .ok (.asmBody (k.getLsbD 8) (k.extractLsb' 0 8))
  | 3 => .ok (.asmCksum (k.getLsbD 8) (k.extractLsb' 0 8))
  | 4 => .ok (.asmHold (k.getLsbD 8) (k.extractLsb' 0 8))
  | _ => .error (.noAssemblerRow k)

/-- The decoder of every format. -/
def decode : Encoded → Except DecodeError Instr
  | .op11 w d => .ok (decodeOp11 w d)
  | .u9 k => .ok (decodeU9 k)
  | .s8 k => .ok (decodeS8 k)
  | .a12 k => decodeA12 k

/-- The operation word `{op, imm}` (R60). -/
def opWord (op : BitVec 3) (imm : Byte) : BitVec 11 := op ++ imm

/-- The encoder: the key of a well-formed instruction, from the same tables (R60, R61, R64, R65, R68). -/
def encode : Instr → Encoded
  | .nop imm => .op11 (opWord 0 imm) .absent
  | .rxb b => .op11 (opWord 1 b) .absent
  | .rxclr imm => .op11 (opWord 2 imm) .absent
  | .stuff b => .op11 (opWord 3 b) .absent
  | .buildLocal d => .op11 0x408 d
  | .buildLocalq d => .op11 0x409 d
  | .buildTx d => .op11 0x410 d
  | .buildRemote d => .op11 0x417 d
  | .buildOther ft => .op11 (opWord 4 ft) .absent
  | .fidrst imm => .op11 (opWord 5 imm) .absent
  | .illegal seven imm => .op11 (opWord (if seven then 7 else 6) imm) .absent
  | .unescXor b => .u9 (u9Key true b)
  | .unescMark => .u9 (u9Key false escByte)
  | .unescPass b => .u9 (u9Key false b)
  | .stuffDelim => .s8 delim
  | .stuffEsc => .s8 escByte
  | .stuffXon => .s8 xon
  | .stuffXoff => .s8 xoff
  | .stuffPass b => .s8 b
  | .asmStart => .a12 (a12Key 0 false delim)
  | .asmDrop e c => .a12 (a12Key 0 e c)
  | .asmLen e c => .a12 (a12Key 1 e c)
  | .asmBody e c => .a12 (a12Key 2 e c)
  | .asmCksum e c => .a12 (a12Key 3 e c)
  | .asmHold e c => .a12 (a12Key 4 e c)

/-- A row of the opcode table in one format: it takes a key when `key and mask = match` (30_encoding.md section 3). -/
structure TableRow (n : Nat) where
  name : RowName
  pat : BitVec n
  mask : BitVec n
  deriving DecidableEq, Repr

/-- Whether a row takes a key. -/
def TableRow.takes {n : Nat} (r : TableRow n) (k : BitVec n) : Bool := k &&& r.mask == r.pat

/-- The row that takes a key: the first in the table's order. -/
def firstRow {n : Nat} (rows : List (TableRow n)) (k : BitVec n) : Option RowName :=
  (rows.find? fun r => r.takes k).map TableRow.name

/-- The OP11 rows (R61). -/
def rowsOp11 : List (TableRow 11) :=
  [⟨.nop, 0x000, 0x700⟩, ⟨.rxb, 0x100, 0x700⟩, ⟨.rxclr, 0x200, 0x700⟩, ⟨.stuff, 0x300, 0x700⟩,
   ⟨.buildLocal, 0x408, 0x7FF⟩, ⟨.buildLocalq, 0x409, 0x7FF⟩, ⟨.buildTx, 0x410, 0x7FF⟩, ⟨.buildRemote, 0x417, 0x7FF⟩,
   ⟨.buildOther, 0x400, 0x700⟩, ⟨.fidrst, 0x500, 0x700⟩, ⟨.illegal, 0x600, 0x600⟩]

/-- The U9 rows (R64). -/
def rowsU9 : List (TableRow 9) :=
  [⟨.unescXor, 0x100, 0x100⟩, ⟨.unescMark, 0x07D, 0x1FF⟩, ⟨.unescPass, 0x000, 0x100⟩]

/-- The S8 rows (R65). -/
def rowsS8 : List (TableRow 8) :=
  [⟨.stuffDelim, 0x7E, 0xFF⟩, ⟨.stuffEsc, 0x7D, 0xFF⟩, ⟨.stuffXon, 0x11, 0xFF⟩, ⟨.stuffXoff, 0x13, 0xFF⟩,
   ⟨.stuffPass, 0x00, 0x00⟩]

/-- The A12 rows (R68). -/
def rowsA12 : List (TableRow 12) :=
  [⟨.asmStart, 0x07E, 0xFFF⟩, ⟨.asmDrop, 0x000, 0xE00⟩, ⟨.asmLen, 0x200, 0xE00⟩, ⟨.asmBody, 0x400, 0xE00⟩,
   ⟨.asmCksum, 0x600, 0xE00⟩, ⟨.asmHold, 0x800, 0xE00⟩]

/-- The row the table gives a key of any format. -/
def tableRow : Encoded → Option RowName
  | .op11 w _ => firstRow rowsOp11 w
  | .u9 k => firstRow rowsU9 k
  | .s8 k => firstRow rowsS8 k
  | .a12 k => firstRow rowsA12 k

/-- The key a number of `nbits` bits stands for. The table's formats have 8, 9, 11 and 12 bits. Two whole bytes do not say
the format: there the two numbers that are a row's whole fixed key are that key, every other number below 2048 is an
operation word, the only thing the host presents (R60), and bit 11 marks an assembler key. The row without a fixed bit is
STUFF.PASS, in format S8 (log 7). -/
def tableKey (nbits w : Nat) : Option Encoded :=
  match nbits with
  | 0 | 8 => if w < 256 then some (.s8 (BitVec.ofNat 8 w)) else none
  | 9 => if w < 512 then some (.u9 (BitVec.ofNat 9 w)) else none
  | 11 => if w < 2048 then some (.op11 (BitVec.ofNat 11 w) .absent) else none
  | 12 => if w < 4096 then some (.a12 (BitVec.ofNat 12 w)) else none
  | 16 =>
    if w = 0x07D then some (.u9 0x07D)
    else if w = 0x07E then some (.a12 0x07E)
    else if w < 2048 then some (.op11 (BitVec.ofNat 11 w) .absent)
    else if w < 4096 then some (.a12 (BitVec.ofNat 12 w))
    else none
  | _ => none

/-- The instruction the decoder reads from a table row's bits; a BUILD has the descriptor in which nothing is given. -/
def decodeTableWord (nbits w : Nat) : Option Instr :=
  match tableKey nbits w with
  | some k => (decode k).toOption
  | none => none

end Sys2Proof
end

