-- ==== Sys2Proof/Machine/State.lean ====
section
/-! DEFINITION. The state of the block as plain data (10_state.md R10), what an operation answers (R31), the ways a step
of the model stops, and the state right after reset (R35). -/

namespace Sys2Proof.Machine

/-- The assembler state (R11), in the order in which a frame passes through them (R21). -/
inductive RxState where
  | empty
  | awaitingLength
  | awaitingBody
  | awaitingChecksum
  | complete
  deriving DecidableEq, Repr

/-- The values of the output `status` (60_exceptions.md R211). -/
inductive Status where
  | ok
  | rxBusy
  | rxOverflow
  | illegalOp
  | unsupportedVariant
  | missingField
  | intRange
  | buildTooLong
  deriving DecidableEq, Repr

/-- The diagnostic events (60_exceptions.md R212). -/
inductive Event where
  /-- The dropped unescaped byte and its `escaped` tag. -/
  | malformedStart (c : Byte) (e : Bool)
  /-- The checksum the payload calls for and the received one. -/
  | checksumMismatch (expected actual : Byte)
  deriving DecidableEq, Repr

/-- The outputs of one operation (R31); `none` is "no value". -/
structure OpOut where
  status : Option Status := none
  done : Option Bool := none
  events : Option (List Event) := none
  /-- What the unstuffer emitted: `some none` is the spec's `None`, `some (some (c, e))` its `Some(c, e)`. -/
  uOut : Option (Option (Byte × Bool)) := none
  sOut : Option (List Byte) := none
  txOut : Option (List Byte) := none
  txFid : Option Byte := none
  deriving DecidableEq, Repr

/-- One thing the host presents: an operation word with its descriptor (30_encoding.md R60, R66), with or without
reset (70_reset_and_hazards.md R250). With `rst` set the word is not performed. -/
structure Presented where
  rst : Bool := false
  word : BitVec 11 := 0
  desc : Descriptor := .absent
  deriving DecidableEq, Repr

/-- The state. The first eight fields are the block's own, all of it (R10); the last four are the model's: the host's
presentations not yet taken (R33; log 1), the outputs of the operation just performed (R31; log 3), the parameter
(R33; log 4), and whether reset has been asserted once (70_reset_and_hazards.md R251; log 5). -/
structure State where
  rxState : RxState
  rxEsc : Bool
  rxBuf : List Host.Cell
  rxCnt : Nat
  rxLen : BitVec 16
  rxValid : Bool
  rxFault : Bool
  fidNext : Byte
  port : List Presented
  out : OpOut
  cfg : Config
  hasReset : Bool
  deriving DecidableEq, Repr

/-- Why a step of the model stops with a fault. All three are safe: the model stops where the spec has no rule. -/
inductive Fault where
  /-- Raised by `step` when an operation, or nothing, is presented before the first reset: "no rule of this spec
  applies" (R251). Safe. -/
  | beforeReset
  /-- Raised by ASM.LEN and ASM.CKSUM on a buffer byte that has no value (R13). No reachable state does it. Safe. -/
  | noValue
  /-- Raised by RXB on a key that selects no row (R68) and by ASM.CKSUM where the source's table has no row (R135).
  No reachable state does it. Safe. -/
  | internalError
  deriving DecidableEq, Repr

/-- Why a step of the model is refused. The block's own refusals are no Refusal: they are next states with a `status`. -/
inductive Refusal where
  /-- Raised by `exec` for an instruction without a meaning; no arm is left that does. Safe. -/
  | notModelled (mnemonic : String)
  /-- Raised by a micro-operation, or by BUILD.other on one of the four admitted frame types, where the key formed
  from the state and the operand selects another row (R64, R65, R68, R61). `step` never meets it. Safe. -/
  | notSelected
  deriving DecidableEq, Repr

/-- The state right after reset (R35): every register at the spec's value, nothing presented, no outputs (R250), the
default capacity (00_scope.md R5). -/
def State.reset : State where
  rxState := .empty
  rxEsc := false
  rxBuf := []
  rxCnt := 0
  rxLen := 0
  rxValid := false
  rxFault := false
  fidNext := 1
  port := []
  out := {}
  cfg := .default
  hasReset := true

end Sys2Proof.Machine
end

