-- ==== Sys2Proof/Machine/Ops.lean ====
section
/-! DEFINITION. The shared operations: the receive buffer (20_memory.md R40 to R46), the registers, the outputs, and
the block's abnormal outcomes `refuse` and `fault` (00_scope.md R7; 60_exceptions.md R210, R218). -/

namespace Sys2Proof.Machine

/-- What a step of the model answers. -/
abbrev Answer := Host.Outcome State Fault Refusal

/-- Go on with the next state, or stop. -/
def thenDo (o : Answer) (f : State → Answer) : Answer :=
  match o with
  | .next s => f s
  | .fault r => .fault r
  | .refused r => .refused r

/-! ## The receive buffer as memory -/

/-- The canonical form: indexes strictly rising. An unlisted index has no value (R13), so no entry repeats that. -/
def Memory.wf : List Host.Cell → Bool
  | [] => true
  | [_] => true
  | x :: y :: rest => decide (x.1 < y.1) && Memory.wf (y :: rest)

/-- The byte at an index, if it has a value (R7 `MemRead`, R13). -/
def Memory.read : List Host.Cell → Nat → Option Byte
  | [], _ => none
  | (j, b) :: rest, i => if i = j then some b else Memory.read rest i

/-- The buffer with a byte written at an index (R7 `MemWrite`). -/
def Memory.write : List Host.Cell → Nat → Byte → List Host.Cell
  | [], i, v => [(i, v)]
  | (j, b) :: rest, i, v =>
    if i < j then (i, v) :: (j, b) :: rest
    else if i = j then (i, v) :: rest
    else (j, b) :: Memory.write rest i v

/-- `n` bytes from index `lo`, when every one of them has a value. -/
def Memory.readSeq (m : List Host.Cell) (lo : Nat) : Nat → Option (List Byte)
  | 0 => some []
  | n + 1 =>
    match Memory.read m lo, Memory.readSeq m (lo + 1) n with
    | some b, some bs => some (b :: bs)
    | _, _ => none

/-- The slice `rx_buf[lo .. hi)` (R6). -/
def State.slice (s : State) (lo hi : Nat) : Option (List Byte) := Memory.readSeq s.rxBuf lo (hi - lo)

/-- Whether a byte count is the capacity: `rx_cnt = RX_CAP` (R139). -/
def Capacity.isFull (c : Capacity) (cnt : Nat) : Bool :=
  match c with
  | .finite n => cnt == n
  | .inf => false

/-- `rx_cnt = RX_CAP` (R139). -/
def State.bufFull (s : State) : Bool := Capacity.isFull s.cfg.rxCap s.rxCnt

/-- `Append(c)` (R7): write at `rx_cnt`, then count it. The capacity is checked by the caller (R20, R139). -/
def State.append (s : State) (c : Byte) : State :=
  { s with rxBuf := Memory.write s.rxBuf s.rxCnt c, rxCnt := s.rxCnt + 1 }

/-! ## Codes -/

/-- The 3-bit encoding of `rx_state` (R11). -/
def RxState.code : RxState → BitVec 3
  | .empty => 0
  | .awaitingLength => 1
  | .awaitingBody => 2
  | .awaitingChecksum => 3
  | .complete => 4

/-- The state with a code; 5, 6 and 7 are the code of none (R11). -/
def RxState.ofCode (c : BitVec 3) : Option RxState :=
  match c.toNat with
  | 0 => some .empty
  | 1 => some .awaitingLength
  | 2 => some .awaitingBody
  | 3 => some .awaitingChecksum
  | 4 => some .complete
  | _ => none

/-- The numbers of the status codes (R211). -/
def Status.code : Status → Nat
  | .ok => 0
  | .rxBusy => 1
  | .rxOverflow => 2
  | .illegalOp => 3
  | .unsupportedVariant => 4
  | .missingField => 5
  | .intRange => 6
  | .buildTooLong => 7

/-- The numbers of the diagnostic events (R212). -/
def Event.code : Event → Nat
  | .malformedStart _ _ => 1
  | .checksumMismatch _ _ => 2

/-! ## Outcomes of an operation -/

/-- Performed with status OK and no other output (R210, R31). -/
def State.okOut (s : State) : State := { s with out := { status := some .ok } }

/-- `refuse X` (R7, R210, R218): no register and no buffer byte changes; `status` is X, no other output has a value. -/
def State.refuse (s : State) (x : Status) : State := { s with out := { status := some x } }

/-- `fault RxOverflow` (R139, R210): only `rx_fault` changes; `status` is RxOverflow. -/
def State.overflow (s : State) : State := { s with rxFault := true, out := { status := some .rxOverflow } }

/-- The unstuffer's outputs: the new flag and the tap `u_out` (R101, R130). -/
def State.unstuffed (s : State) (emitted : Option (Byte × Bool)) (esc : Bool) : State :=
  { s with rxEsc := esc, out := { s.out with uOut := some emitted } }

/-- The assembler's outputs `done` and `events` (R31). -/
def State.report (s : State) (done : Bool) (events : List Event) : State :=
  { s with out := { s.out with done := some done, events := some events } }

/-- The stuffer's output `s_out` (R31). -/
def State.stuffed (s : State) (bytes : List Byte) : State :=
  { s with out := { s.out with sOut := some bytes } }

/-! ## Recovery: the analogue of a return (R219) -/

/-- Discard the frame (R202): the buffer, the count, the length, the valid and escape flags; not `rx_fault`. -/
def State.clearFrame (s : State) : State :=
  { s with rxState := .empty, rxBuf := [], rxCnt := 0, rxLen := 0, rxValid := false, rxEsc := false }

/-- Reset (R250): every register takes its reset value, there are no outputs; the parameter is fixed once for all
(R33) and what the host goes on to present stays (log 1, log 4). -/
def State.takeReset (s : State) : State :=
  { State.reset with cfg := s.cfg, port := s.port }

end Sys2Proof.Machine
end

