-- ==== Sys2Proof/Machine/Flags.lean ====
section
/-! DEFINITION. The ChecksumCodec (41_checksum.md), which computes the flag `rx_valid`. The flag `rx_esc` is the
unstuffer's second result (Operands.lean), `rx_fault` is written by `State.overflow` (10_state.md R22). -/

namespace Sys2Proof.Machine

/-- `sum(p)`: the integer sum of a byte sequence (00_scope.md R6). -/
def byteSum : List Byte → Nat
  | [] => 0
  | b :: bs => b.toNat + byteSum bs

/-- `CKSUM(payload) = 0xFF - (sum(payload) mod 256)` (R120). -/
def cksum (payload : List Byte) : Byte := BitVec.ofNat 8 (0xFF - byteSum payload % 256)

/-- `VALID(p) = (sum(p) mod 256 = 0xFF)` (R121; 90_conflicts.md C4). -/
def valid (p : List Byte) : Bool := byteSum p % 256 == 0xFF

end Sys2Proof.Machine
end

