-- ==== Sys2Proof/Machine/Operands.lean ====
section
/-! DEFINITION. Operands and data transformations: the ByteStuffCodec (40_byte_stuffer.md), the integer serializer,
the descriptor's operands and the generic frame (43_frame_builder.md). -/

namespace Sys2Proof.Machine

/-! ## The byte stuffer -/

/-- `UNESC(b, esc)`: what is emitted and the new flag (R101). -/
def unesc (b : Byte) (esc : Bool) : Option (Byte × Bool) × Bool :=
  if esc then (some (b ^^^ stuffMask, true), false)
  else if b = escByte then (none, true)
  else (some (b, false), false)

/-- `unescape(buf, esc)`: the tagged bytes and the final flag (R102). -/
def unescape : List Byte → Bool → List (Byte × Bool) × Bool
  | [], esc => ([], esc)
  | b :: rest, esc =>
    let tail := unescape rest (unesc b esc).2
    ((unesc b esc).1.toList ++ tail.1, tail.2)

/-- `STUFF1(b)`: one or two wire bytes (R104). -/
def stuff1 (b : Byte) : List Byte :=
  if b = delim ∨ b = escByte ∨ b = xon ∨ b = xoff then [escByte, b ^^^ stuffMask] else [b]

/-- `escape(buf)` (R105); also the pseudo-operation ESCAPE (30_encoding.md R78). -/
def escape : List Byte → List Byte
  | [] => []
  | b :: rest => stuff1 b ++ escape rest

/-! ## Integers -/

/-- `be(v, w)`: the low `w` bytes of `v`, most significant first (00_scope.md R6). -/
def be (v : Nat) : Nat → List Byte
  | 0 => []
  | w + 1 => BitVec.ofNat 8 (v / 256 ^ w) :: be v w

/-- `be16(v) = [v[15:8], v[7:0]]` (00_scope.md R6). -/
def be16 (v : BitVec 16) : List Byte := [v.extractLsb' 8 8, v.extractLsb' 0 8]

/-- The received length, `rx_buf[1] * 256 + rx_buf[2]` (30_encoding.md R69; 42_frame_assembler.md R133). -/
def lengthOf (hi lo : Byte) : BitVec 16 := BitVec.ofNat 16 (hi.toNat * 256 + lo.toNat)

/-- The length the buffer declares, when both its bytes have a value (R41; R133). -/
def State.declaredLength (s : State) : Option (BitVec 16) :=
  match Memory.read s.rxBuf 1, Memory.read s.rxBuf 2 with
  | some hi, some lo => some (lengthOf hi lo)
  | _, _ => none

/-- `INT2BYTES(v, auto)`: width 1, 2 or 4 by magnitude (R161). -/
def int2bytesAuto (v : Nat) : Except Status (List Byte) :=
  if v < 2 ^ 8 then .ok (be v 1)
  else if v < 2 ^ 16 then .ok (be v 2)
  else if v < 2 ^ 32 then .ok (be v 4)
  else .error .intRange

/-- `INT2BYTES(v, w)` for an explicit width (R161). -/
def int2bytesSized (v w : Nat) : Except Status (List Byte) :=
  if w < 1 ∨ w > intWMax then .error .intRange
  else if v ≥ 2 ^ (8 * w) then .error .intRange
  else .ok (be v w)

/-! ## The descriptor -/

/-- `PARAM(d)`: the optional parameter bytes (R163). -/
def param (d : Descriptor) : Except Status (List Byte) :=
  match d.paramKind with
  | .absent => .ok []
  | .bytes => .ok d.paramBytes
  | .intAuto => int2bytesAuto d.paramInt.toNat
  | .intSized => int2bytesSized d.paramInt.toNat d.paramW.toNat

/-- `FIELDS_08(d)` and `FIELDS_09(d)`: the name, then the parameter (R170, R171). -/
def fieldsLocal (d : Descriptor) : Except Status (List Byte) :=
  match param d with
  | .ok p => .ok (d.name ++ p)
  | .error x => .error x

/-- `FIELDS_10(d)`: all four of `dest`, `net`, `radius`, `opt` must be given (R172). -/
def fieldsTx (d : Descriptor) : Except Status (List Byte) :=
  if d.destGiven && d.netGiven && d.radiusGiven && d.optGiven then
    .ok (d.dest.toList ++ be16 d.net ++ [d.radius] ++ [d.opt] ++ d.data)
  else .error .missingField

/-- `FIELDS_17(d)`: three independent defaults, then the name and the parameter (R173). -/
def fieldsRemote (d : Descriptor) : Except Status (List Byte) :=
  let dest := if d.destGiven then d.dest else broadcast
  let net := if d.netGiven then d.net else unknownNet
  let opt := if d.optGiven then d.opt else remoteOptDefault
  match param d with
  | .ok p => .ok (dest.toList ++ be16 net ++ [opt] ++ d.name ++ p)
  | .error x => .error x

/-! ## The frame ID generator -/

/-- The value after `v` in the cycle 1..255 (R160). -/
def fidAfter (v : Byte) : Byte := if v = 255 then 1 else v + 1

/-- `FID(d)`: the explicit ID, or a draw (R162); with it the generator's next value. -/
def chooseFid (d : Descriptor) (fidNext : Byte) : Byte × Byte :=
  if d.fidGiven then (d.fid, fidNext) else (fidNext, fidAfter fidNext)

/-! ## The frame -/

/-- The unescaped frame `[0x7E] ++ be16(L) ++ payload ++ [CKSUM(payload)]` (R165 steps 3 to 5; 30_encoding.md R62). -/
def unescapedFrame (payload : List Byte) : List Byte :=
  [delim] ++ be16 (BitVec.ofNat 16 payload.length) ++ payload ++ [cksum payload]

/-- `FRAME(ft, fid, fields, noesc)`: the delimiter is never escaped, everything after it is unless `noesc` (R165). -/
def frame (ft fid : Byte) (fields : List Byte) (noesc : Bool) : List Byte :=
  let uf := unescapedFrame ([ft, fid] ++ fields)
  if noesc then uf else [delim] ++ escape (uf.drop 1)

end Sys2Proof.Machine
end

