-- ==== Sys2Proof/Machine/Builder.lean ====
section
/-! DEFINITION. The BUILD operations (43_frame_builder.md R164, R166, R170 to R174). -/

namespace Sys2Proof.Machine

/-- The common shape of the four BUILD operations (R166), after the variant's own checks: the length is checked before any
state changes (R164), then the frame ID is taken, the only state change. -/
def build (ft : Byte) (fields : Except Status (List Byte)) (d : Descriptor) (s : State) : State :=
  match fields with
  | .error x => s.refuse x
  | .ok fs =>
    if 2 + fs.length > payloadMax then s.refuse .buildTooLong
    else
      let fid := chooseFid d s.fidNext
      { s with
        fidNext := fid.2
        out := { status := some .ok, txOut := some (frame ft fid.1 fs d.noesc), txFid := some fid.1 } }

/-- `BUILD.LOCAL` (R170). -/
def execBuildLocal (d : Descriptor) (s : State) : Answer := .next (build 0x08 (fieldsLocal d) d s)

/-- `BUILD.LOCALQ` (R171): differs from BUILD.LOCAL in the frame-type byte only. -/
def execBuildLocalq (d : Descriptor) (s : State) : Answer := .next (build 0x09 (fieldsLocal d) d s)

/-- `BUILD.TX` (R172). -/
def execBuildTx (d : Descriptor) (s : State) : Answer := .next (build 0x10 (fieldsTx d) d s)

/-- `BUILD.REMOTE` (R173). -/
def execBuildRemote (d : Descriptor) (s : State) : Answer := .next (build 0x17 (fieldsRemote d) d s)

/-- `BUILD` with any other frame type (R174): refused with UnsupportedVariant. The four admitted types are other rows. -/
def execBuildOther (ft : Byte) (s : State) : Answer :=
  if isBuildable ft then .refused .notSelected else .next (s.refuse .unsupportedVariant)

end Sys2Proof.Machine
end

