-- ==== Sys2Proof/Machine/Control.lean ====
section
/-! DEFINITION. The control operations NOP, FIDRST and the illegal codes (44_control.md R200, R201, R203). -/

namespace Sys2Proof.Machine

/-- `NOP` (R200): no register, buffer byte or other output changes. -/
def execNop (_imm : Byte) (s : State) : Answer := .next s.okOut

/-- `FIDRST` (R203): the next draw returns 1. -/
def execFidrst (_imm : Byte) (s : State) : Answer := .next { s.okOut with fidNext := 1 }

/-- Operation codes 6 and 7 (R201): refused with IllegalOp. -/
def execIllegal (_seven : Bool) (_imm : Byte) (s : State) : Answer := .next (s.refuse .illegalOp)

end Sys2Proof.Machine
end

