-- ==== Sys2Proof/Machine/Assembler.lean ====
section
/-! DEFINITION. The FrameAssembler's micro-operations (42_frame_assembler.md R131 to R136), one per row of the source's
state table (R137), each on an unescaped byte `c` with its tag `e`. Outside its state a row is not selected (log 6). -/

namespace Sys2Proof.Machine

/-- Append a byte, unless the buffer is full: then the append is not performed, it faults (R20, R46, R139). RXB makes the
same check before it steps the unstuffer (R130). -/
def appendThen (s : State) (c : Byte) (k : State → Answer) : Answer :=
  if s.bufFull then .next s.overflow else k (s.append c)

/-- `ASM.START` (R131): selected in Empty on an unescaped delimiter. -/
def execAsmStart (s : State) : Answer :=
  if s.rxState = .empty then
    .next ({ s with rxBuf := Memory.write s.rxBuf 0 delim, rxCnt := 1, rxState := .awaitingLength }.report false [])
  else .refused .notSelected

/-- `ASM.DROP` (R132): selected in Empty on anything else; no register changes. -/
def execAsmDrop (e : Bool) (c : Byte) (s : State) : Answer :=
  if s.rxState = .empty ∧ ¬(c = delim ∧ e = false) then .next (s.report false [.malformedStart c e])
  else .refused .notSelected

/-- `ASM.LEN` (R133): the third buffered byte completes the length, which is parsed big-endian. -/
def execAsmLen (_e : Bool) (c : Byte) (s : State) : Answer :=
  if s.rxState = .awaitingLength then
    appendThen s c fun t =>
      if t.rxCnt = 3 then
        match t.declaredLength with
        | some len => .next ({ t with rxLen := len, rxState := .awaitingBody }.report false [])
        | none => .fault .noValue
      else .next (t.report false [])
  else .refused .notSelected

/-- `ASM.BODY` (R134): the count is compared after the append, by equality, on integers. -/
def execAsmBody (_e : Bool) (c : Byte) (s : State) : Answer :=
  if s.rxState = .awaitingBody then
    appendThen s c fun t =>
      if t.rxCnt = t.rxLen.toNat + 3 then .next ({ t with rxState := .awaitingChecksum }.report false [])
      else .next (t.report false [])
  else .refused .notSelected

/-- `ASM.CKSUM` (R135): validate the payload with its checksum; the frame is Complete whether it matches or not. -/
def execAsmCksum (_e : Bool) (c : Byte) (s : State) : Answer :=
  if s.rxState = .awaitingChecksum then
    appendThen s c fun t =>
      if t.rxCnt = t.rxLen.toNat + 4 then
        match t.slice 3 t.rxCnt, t.slice 3 (t.rxLen.toNat + 3) with
        | some p, some payload =>
          .next ({ t with rxValid := valid p, rxState := .complete }.report true
            (if valid p then [] else [.checksumMismatch (cksum payload) c]))
        | _, _ => .fault .noValue
      else .fault .internalError
  else .refused .notSelected

/-- `ASM.HOLD` (R136): in Complete the byte is refused with RxBusy. -/
def execAsmHold (_e : Bool) (_c : Byte) (s : State) : Answer :=
  if s.rxState = .complete then .next (s.refuse .rxBusy) else .refused .notSelected

/-- Perform the assembler row a key selects; a key that selects none is an internal error (R68). -/
def performA12 (r : Except DecodeError Instr) (s : State) : Answer :=
  match r with
  | .ok .asmStart => execAsmStart s
  | .ok (.asmDrop e c) => execAsmDrop e c s
  | .ok (.asmLen e c) => execAsmLen e c s
  | .ok (.asmBody e c) => execAsmBody e c s
  | .ok (.asmCksum e c) => execAsmCksum e c s
  | .ok (.asmHold e c) => execAsmHold e c s
  | _ => .fault .internalError

end Sys2Proof.Machine
end

