-- ==== Sys2Proof/Machine/Stuffer.lean ====
section
/-! DEFINITION. The ByteStuffCodec's instructions (40_byte_stuffer.md R101, R104): the unstuffer's three
micro-operations, the operation STUFF and the stuffer's five. A micro-operation adds its outputs to those of the
operation it is a case of; where its key does not select it, it is refused by name (log 6). -/

namespace Sys2Proof.Machine

/-- `UNESC.XOR` (R101): selected when `rx_esc = 1`, whatever the byte. -/
def execUnescXor (b : Byte) (s : State) : Answer :=
  if s.rxEsc then .next (s.unstuffed (some (b ^^^ stuffMask, true)) false) else .refused .notSelected

/-- `UNESC.MARK` (R101): selected when `rx_esc = 0` and the byte is 0x7D; nothing is emitted. -/
def execUnescMark (s : State) : Answer :=
  if s.rxEsc then .refused .notSelected else .next (s.unstuffed none true)

/-- `UNESC.PASS` (R101): selected when `rx_esc = 0` and the byte is not 0x7D. -/
def execUnescPass (b : Byte) (s : State) : Answer :=
  if s.rxEsc then .refused .notSelected
  else if b = escByte then .refused .notSelected
  else .next (s.unstuffed (some (b, false)) false)

/-- `STUFF.DELIM` (R104, R65): output 7D 5E. -/
def execStuffDelim (s : State) : Answer := .next (s.stuffed [0x7D, 0x5E])

/-- `STUFF.ESC` (R104, R65): output 7D 5D. -/
def execStuffEsc (s : State) : Answer := .next (s.stuffed [0x7D, 0x5D])

/-- `STUFF.XON` (R104, R65): output 7D 31. -/
def execStuffXon (s : State) : Answer := .next (s.stuffed [0x7D, 0x31])

/-- `STUFF.XOFF` (R104, R65): output 7D 33. -/
def execStuffXoff (s : State) : Answer := .next (s.stuffed [0x7D, 0x33])

/-- `STUFF.PASS` (R104, R65): selected for a byte that is not reserved; output the byte unchanged. -/
def execStuffPass (b : Byte) (s : State) : Answer :=
  if isReserved b then .refused .notSelected else .next (s.stuffed [b])

/-- Perform the stuffer row a key selects. -/
def performS8 (i : Instr) (s : State) : Answer :=
  match i with
  | .stuffDelim => execStuffDelim s
  | .stuffEsc => execStuffEsc s
  | .stuffXon => execStuffXon s
  | .stuffXoff => execStuffXoff s
  | .stuffPass b => execStuffPass b s
  | _ => .fault .internalError

/-- `STUFF b` (R104): status OK, and the row the key `S8 = b` selects gives `s_out`. -/
def execStuff (b : Byte) (s : State) : Answer := performS8 (decodeS8 b) s.okOut

/-- Perform the unstuffer row a key selects. -/
def performU9 (i : Instr) (s : State) : Answer :=
  match i with
  | .unescXor b => execUnescXor b s
  | .unescMark => execUnescMark s
  | .unescPass b => execUnescPass b s
  | _ => .fault .internalError

end Sys2Proof.Machine
end

