-- ==== Sys2Proof/Machine/Receive.lean ====
section
/-! DEFINITION. The receive operations RXB (42_frame_assembler.md R130) and RXCLR (44_control.md R202), and the
pseudo-operation ASSEMBLE (R138; 30_encoding.md R78). -/

namespace Sys2Proof.Machine

/-- Whether RXB faults: the unstuffer emits a byte, the assembler would append it, and the buffer is full (R139). -/
def State.overflows (s : State) (b : Byte) : Bool :=
  (unesc b s.rxEsc).1.isSome && s.rxState != .empty && s.bufFull

/-- The assembler's part of RXB: not stepped when nothing was emitted, else the row the key selects (R130). -/
def stepAssembler (emitted : Option (Byte × Bool)) (s : State) : Answer :=
  match emitted with
  | none => .next (s.report false [])
  | some (c, e) => performA12 (decodeA12 (a12Key s.rxState.code e c)) s

/-- `RXB b` (R130), with its tests in the order written (R217 point 2). -/
def execRxb (b : Byte) (s : State) : Answer :=
  if s.rxFault then .next (s.refuse .rxOverflow)
  else if s.rxState = .complete then .next (s.refuse .rxBusy)
  else if s.overflows b then .next s.overflow
  else thenDo (performU9 (decodeU9 (u9Key s.rxEsc b)) s.okOut) (stepAssembler (unesc b s.rxEsc).1)

/-- `RXCLR` (R202): accepted in every state, `rx_fault` is not changed. -/
def execRxclr (_imm : Byte) (s : State) : Answer := .next s.clearFrame.okOut

/-- What ASSEMBLE answers (R138), with the state it leaves and the events of its operations in order (R212). -/
structure Assembled where
  state : State
  completed : Bool
  consumed : Nat
  events : List Event
  deriving DecidableEq, Repr

/-- `ASSEMBLE(buf)` (R138): RXB of each byte, stopping at a status that is not OK, before that byte is counted, and after
the byte that completes the frame. -/
def assemble : List Byte → State → Assembled
  | [], s => ⟨s, false, 0, []⟩
  | b :: rest, s =>
    match execRxb b s with
    | .next t =>
      if t.out.status ≠ some .ok then ⟨t, false, 0, []⟩
      else if t.out.done = some true then ⟨t, true, 1, t.out.events.getD []⟩
      else
        let r := assemble rest t
        ⟨r.state, r.completed, r.consumed + 1, t.out.events.getD [] ++ r.events⟩
    | .fault _ => ⟨s, false, 0, []⟩
    | .refused _ => ⟨s, false, 0, []⟩

end Sys2Proof.Machine
end

