-- ==== Sys2Proof/Machine/Dispatch.lean ====
section
/-! DEFINITION. The dispatch of an instruction to its meaning (44_control.md R204), one arm per row of the opcode table. -/

namespace Sys2Proof.Machine

def exec (i : Instr) (s : State) : Host.Outcome State Fault Refusal :=
  match i with
  -- the operation word (OP11)
  | .nop imm => Sys2Proof.Machine.execNop imm s
  | .rxb b => Sys2Proof.Machine.execRxb b s
  | .rxclr imm => Sys2Proof.Machine.execRxclr imm s
  | .stuff b => Sys2Proof.Machine.execStuff b s
  | .buildLocal d => Sys2Proof.Machine.execBuildLocal d s
  | .buildLocalq d => Sys2Proof.Machine.execBuildLocalq d s
  | .buildTx d => Sys2Proof.Machine.execBuildTx d s
  | .buildRemote d => Sys2Proof.Machine.execBuildRemote d s
  | .buildOther ft => Sys2Proof.Machine.execBuildOther ft s
  | .fidrst imm => Sys2Proof.Machine.execFidrst imm s
  | .illegal seven imm => Sys2Proof.Machine.execIllegal seven imm s
  -- the unstuffer's micro-operations (U9)
  | .unescXor b => Sys2Proof.Machine.execUnescXor b s
  | .unescMark => Sys2Proof.Machine.execUnescMark s
  | .unescPass b => Sys2Proof.Machine.execUnescPass b s
  -- the stuffer's micro-operations (S8)
  | .stuffDelim => Sys2Proof.Machine.execStuffDelim s
  | .stuffEsc => Sys2Proof.Machine.execStuffEsc s
  | .stuffXon => Sys2Proof.Machine.execStuffXon s
  | .stuffXoff => Sys2Proof.Machine.execStuffXoff s
  | .stuffPass b => Sys2Proof.Machine.execStuffPass b s
  -- the assembler's micro-operations (A12)
  | .asmStart => Sys2Proof.Machine.execAsmStart s
  | .asmDrop e c => Sys2Proof.Machine.execAsmDrop e c s
  | .asmLen e c => Sys2Proof.Machine.execAsmLen e c s
  | .asmBody e c => Sys2Proof.Machine.execAsmBody e c s
  | .asmCksum e c => Sys2Proof.Machine.execAsmCksum e c s
  | .asmHold e c => Sys2Proof.Machine.execAsmHold e c s

end Sys2Proof.Machine
end

