-- ==== Sys2Proof/Machine/Fetch.lean ====
section
/-! DEFINITION. Taking what the host presents (30_encoding.md R60; 70_reset_and_hazards.md R250), and presenting a
given row of the opcode table to the block. -/

namespace Sys2Proof.Machine

/-- What the next step finds at the operation port. -/
inductive Fetched where
  /-- Reset is asserted, with whatever word beside it (R250). -/
  | reset (s : State)
  /-- An operation word with its descriptor; the state has the presentation taken off the port. -/
  | operation (w : BitVec 11) (d : Descriptor) (s : State)
  deriving DecidableEq, Repr

/-- Take the oldest presentation; where nothing is presented, that is a NOP (44_control.md R200; log 2). -/
def fetch (s : State) : Fetched :=
  match s.port with
  | [] => .operation 0 .absent s
  | p :: rest =>
    if p.rst then .reset { s with port := rest } else .operation p.word p.desc { s with port := rest }

/-- Present an operation before anything else that waits. -/
def State.present (s : State) (w : BitVec 11) (d : Descriptor) : State :=
  { s with port := { word := w, desc := d } :: s.port }

/-- The receive registers of the shortest frame in a given assembler state (10_state.md R23), so that the state's row is
the one a byte selects. -/
def State.inRxState (s : State) (r : RxState) : State :=
  let t := { s.clearFrame with rxState := r, rxFault := false }
  match r with
  | .empty => t
  | .awaitingLength => { t with rxBuf := [(0, delim)], rxCnt := 1 }
  | .awaitingBody => { t with rxBuf := [(0, delim), (1, 0), (2, 2)], rxCnt := 3, rxLen := 2 }
  | .awaitingChecksum => { t with rxBuf := [(0, delim), (1, 0), (2, 1), (3, 0)], rxCnt := 4, rxLen := 1 }
  | .complete =>
    { t with rxBuf := [(0, delim), (1, 0), (2, 1), (3, 0), (4, 0xFF)], rxCnt := 5, rxLen := 1, rxValid := true }

/-- Put a row's key where the next step meets it: an operation word is presented; a stuffer key is STUFF's byte; an
unstuffer or assembler key is RXB's byte with the registers the key is formed from set to it (log 7). -/
def State.presentKey (s : State) (k : Encoded) : State :=
  match k with
  | .op11 w d => s.present w d
  | .s8 b => s.present (opWord 3 b) .absent
  | .u9 k => { s with rxEsc := k.msb }.present (opWord 1 (k.extractLsb' 0 8)) .absent
  | .a12 k =>
    match RxState.ofCode (k.extractLsb' 9 3) with
    | some .complete => (s.inRxState .complete).present (opWord 1 (k.extractLsb' 0 8)) .absent
    | some r =>
      let c := k.extractLsb' 0 8
      { s.inRxState r with rxEsc := k.getLsbD 8 }.present
        (opWord 1 (if k.getLsbD 8 then c ^^^ stuffMask else c)) .absent
    | none => s

end Sys2Proof.Machine
end

