-- ==== Sys2Proof/Machine/Step.lean ====
section
/-! DEFINITION. One step: one operation of the host, whole (20_memory.md R48; 44_control.md R204), or reset (R250). -/

namespace Sys2Proof.Machine

/-- Reset comes first and is available in every state (R217 point 1, R250); before the first reset there is no other step
(R251; log 5); otherwise the presented word is decoded and performed. -/
def step (s : State) : Host.Outcome State Fault Refusal :=
  match fetch s with
  | .reset t => .next t.takeReset
  | .operation w d t => if s.hasReset then exec (decodeOp11 w d) t else .fault .beforeReset

/-- The state with a row's bits where the next step meets them. -/
def State.withFetchWord (s : State) (nbits w : Nat) : State :=
  match tableKey nbits w with
  | some k => s.presentKey k
  | none => s

end Sys2Proof.Machine
end

