-- ==== Sys2Proof/Machine/Outputs.lean ====
section
/-! DEFINITION. The read-only outputs through which the host sees the state (10_state.md R30). Reading one has no side
effect and is no operation; an output that has no value is `none`. -/

namespace Sys2Proof.Machine.State

/-- `o_state`. -/
def oState (s : State) : BitVec 3 := s.rxState.code
/-- `o_done`. -/
def oDone (s : State) : Bool := s.rxState == .complete
/-- `o_valid`. -/
def oValid (s : State) : Bool := s.rxValid
/-- `o_esc`. -/
def oEsc (s : State) : Bool := s.rxEsc
/-- `o_fault`. -/
def oFault (s : State) : Bool := s.rxFault
/-- `o_cnt`. -/
def oCnt (s : State) : Nat := s.rxCnt
/-- `o_len`. -/
def oLen (s : State) : BitVec 16 := s.rxLen
/-- `o_raw`: `rx_buf[0 .. rx_cnt)`. -/
def oRaw (s : State) : Option (List Byte) := s.slice 0 s.rxCnt
/-- `o_ftype`: `rx_buf[3]` when `rx_cnt >= 4`. -/
def oFtype (s : State) : Option Byte := if s.rxCnt ≥ 4 then Memory.read s.rxBuf 3 else none
/-- `o_fid`: `rx_buf[4]` when `rx_cnt >= 5` and `rx_len >= 2`. -/
def oFid (s : State) : Option Byte :=
  if s.rxCnt ≥ 5 ∧ s.rxLen.toNat ≥ 2 then Memory.read s.rxBuf 4 else none
/-- `o_ck_actual`: `rx_buf[rx_len + 3]` in Complete. -/
def oCkActual (s : State) : Option Byte :=
  if s.rxState = .complete then Memory.read s.rxBuf (s.rxLen.toNat + 3) else none
/-- `o_ck_expected`: `CKSUM(rx_buf[3 .. rx_len + 3))` in Complete. -/
def oCkExpected (s : State) : Option Byte :=
  if s.rxState = .complete then (s.slice 3 (s.rxLen.toNat + 3)).map cksum else none
/-- `o_fid_next`. -/
def oFidNext (s : State) : Byte := s.fidNext

end Sys2Proof.Machine.State
end

