-- ==== Sys2Proof/Safety.lean ====
section
/-! DEFINITION. What holds between the registers after reset and after every operation (10_state.md R23), with the frame
predicates the statements use. -/

namespace Sys2Proof.Machine

/-- The parameter is one the spec allows: `RX_CAP >= 5` or `inf` (00_scope.md R5). -/
def Capacity.allowed : Capacity → Bool
  | .finite n => decide (5 ≤ n)
  | .inf => true

/-- `n <= RX_CAP`. -/
def Capacity.holds (c : Capacity) (n : Nat) : Bool :=
  match c with
  | .finite m => decide (n ≤ m)
  | .inf => true

/-- The register invariant (R23), with the buffer's own part: exactly the indexes below `rx_cnt` have a value (R13). -/
structure State.Inv (s : State) : Prop where
  /-- The parameter is an allowed one (00_scope.md R5). -/
  capAllowed : Capacity.allowed s.cfg.rxCap = true
  /-- "Only the bytes `rx_buf[0 .. rx_cnt)` have a value" (R13), in the canonical order. -/
  filled : s.rxBuf.map Prod.fst = List.range s.rxCnt
  /-- `rx_cnt <= RX_CAP` (R14). -/
  cntHeld : Capacity.holds s.cfg.rxCap s.rxCnt = true
  /-- `1 <= fid_next <= 255` (R18). -/
  fidRange : 1 ≤ s.fidNext.toNat ∧ s.fidNext.toNat ≤ 255
  /-- The row Empty. -/
  inEmpty : s.rxState = .empty → s.rxCnt = 0 ∧ s.rxLen = 0 ∧ s.rxValid = false
  /-- The row AwaitingLength. -/
  inAwaitingLength : s.rxState = .awaitingLength →
    1 ≤ s.rxCnt ∧ s.rxCnt ≤ 2 ∧ Memory.read s.rxBuf 0 = some delim ∧ s.rxLen = 0 ∧ s.rxValid = false
  /-- The row AwaitingBody. -/
  inAwaitingBody : s.rxState = .awaitingBody →
    3 ≤ s.rxCnt ∧ Memory.read s.rxBuf 0 = some delim ∧ s.declaredLength = some s.rxLen ∧ s.rxValid = false ∧
      (1 ≤ s.rxLen.toNat → s.rxCnt ≤ s.rxLen.toNat + 2)
  /-- The row AwaitingChecksum. -/
  inAwaitingChecksum : s.rxState = .awaitingChecksum →
    1 ≤ s.rxLen.toNat ∧ s.rxCnt = s.rxLen.toNat + 3 ∧ Memory.read s.rxBuf 0 = some delim ∧
      s.declaredLength = some s.rxLen ∧ s.rxValid = false
  /-- The row Complete. -/
  inComplete : s.rxState = .complete →
    1 ≤ s.rxLen.toNat ∧ s.rxCnt = s.rxLen.toNat + 4 ∧ Memory.read s.rxBuf 0 = some delim ∧
      s.declaredLength = some s.rxLen ∧ (s.slice 3 s.rxCnt).map valid = some s.rxValid ∧ s.rxEsc = false

/-- The receive side's registers are the same (R10). -/
def SameReceive (s t : State) : Prop :=
  t.rxState = s.rxState ∧ t.rxEsc = s.rxEsc ∧ t.rxBuf = s.rxBuf ∧ t.rxCnt = s.rxCnt ∧ t.rxLen = s.rxLen ∧
    t.rxValid = s.rxValid ∧ t.rxFault = s.rxFault

/-- What no operation writes: the parameter, the host's waiting presentations, that reset has been. -/
def SameAround (s t : State) : Prop := t.cfg = s.cfg ∧ t.port = s.port ∧ t.hasReset = s.hasReset

/-- The wire byte `b` makes the unstuffer emit `(c, e)` with the flag `esc` (40_byte_stuffer.md R101), in the source's
words: after an escape byte the XOR with 0x20, tagged; else the byte itself, unless it is the escape byte. -/
def Emits (b : Byte) (esc : Bool) (c : Byte) (e : Bool) : Prop :=
  (esc = true ∧ c = b ^^^ 0x20 ∧ e = true) ∨ (esc = false ∧ b ≠ 0x7D ∧ c = b ∧ e = false)

/-- The state after an accepted BUILD (43_frame_builder.md R162, R166): `fid_next` is drawn from when no ID is given, and
nothing else but the outputs changes. -/
def builtState (ft : Byte) (d : Descriptor) (fields : List Byte) (s : State) : State :=
  let fid := if d.fidGiven then d.fid else s.fidNext
  { s with
    fidNext := if d.fidGiven then s.fidNext else if s.fidNext = 255 then 1 else s.fidNext + 1
    out := { status := some .ok, txOut := some (frame ft fid fields d.noesc), txFid := some fid } }

/-- The state after a refusal (60_exceptions.md R210, R218): as before, with the code as the only output. -/
def refusedState (x : Status) (s : State) : State := { s with out := { status := some x } }

/-- Two descriptors agree on what every BUILD uses: `noesc`, and the frame ID where one is given (30_encoding.md R66). -/
def SameCommon (d x : Descriptor) : Prop :=
  d.noesc = x.noesc ∧ d.fidGiven = x.fidGiven ∧ (d.fidGiven = true → d.fid = x.fid)

/-- Two descriptors agree on `dest`, `net` and `opt`: on which of them are given, and on the given ones (R66). -/
def SameAddress (d x : Descriptor) : Prop :=
  d.destGiven = x.destGiven ∧ d.netGiven = x.netGiven ∧ d.optGiven = x.optGiven ∧
    (d.destGiven = true → d.dest = x.dest) ∧ (d.netGiven = true → d.net = x.net) ∧ (d.optGiven = true → d.opt = x.opt)

/-- Two descriptors agree on the parameter: on its kind, and on the operands the kind selects (R66). -/
def SameParam (d x : Descriptor) : Prop :=
  d.paramKind = x.paramKind ∧ (d.paramKind = .bytes → d.paramBytes = x.paramBytes) ∧
    (d.paramKind = .intAuto ∨ d.paramKind = .intSized → d.paramInt = x.paramInt) ∧
    (d.paramKind = .intSized → d.paramW = x.paramW)

/-- The receive side as it is between frames, able to take the next one (R23; 43_frame_builder.md R175). -/
def State.Clean (s : State) : Prop :=
  s.rxState = .empty ∧ s.rxEsc = false ∧ s.rxFault = false ∧ s.Inv

/-- The operations of the receive side (20_memory.md R50). -/
def isReceive : Instr → Bool
  | .rxb _ | .rxclr _ => true
  | .nop _ | .stuff _ | .buildLocal _ | .buildLocalq _ | .buildTx _ | .buildRemote _ | .buildOther _ | .fidrst _
  | .illegal _ _ | .unescXor _ | .unescMark | .unescPass _ | .stuffDelim | .stuffEsc | .stuffXon | .stuffXoff
  | .stuffPass _ | .asmStart | .asmDrop _ _ | .asmLen _ _ | .asmBody _ _ | .asmCksum _ _ | .asmHold _ _ => false

/-- The operations of the transmit side (20_memory.md R50). -/
def isTransmit : Instr → Bool
  | .stuff _ | .buildLocal _ | .buildLocalq _ | .buildTx _ | .buildRemote _ | .buildOther _ | .fidrst _ => true
  | .nop _ | .rxb _ | .rxclr _ | .illegal _ _ | .unescXor _ | .unescMark | .unescPass _ | .stuffDelim | .stuffEsc
  | .stuffXon | .stuffXoff | .stuffPass _ | .asmStart | .asmDrop _ _ | .asmLen _ _ | .asmBody _ _ | .asmCksum _ _
  | .asmHold _ _ => false

/-- The integer a byte sequence stands for, most significant byte first (00_scope.md R6). -/
def beValue : List Byte → Nat
  | [] => 0
  | b :: bs => b.toNat * 256 ^ bs.length + beValue bs

/-- How many bytes of a sequence are reserved: the `r` of 30_encoding.md R63. -/
def reservedCount (bs : List Byte) : Nat := (bs.filter isReserved).length

end Sys2Proof.Machine
end

