-- ==== Sys2Proof/Certificates/Slice0/Obligations.lean ====
section
/-! DEFINITION. The statements for the provers. Each docstring names the rule of spec/ it formalises; statements that rest
on a choice of the model name its log entry. -/

open Sys2Proof Sys2Proof.Machine

/-! ## Encoding -/

/-- Every well-formed instruction of the opcode table, with every operand at every value its encoding has, comes back
from its encoding (30_encoding.md R60, R61, R64, R65, R68). -/
def Obligations.EncodedInstructionDecodesToItself : Prop :=
  ∀ i : Instr, i.WellFormed = true → decode (encode i) = .ok i

/-- The other direction: what a key decodes to is well formed and encodes to that very key; only an operation other than
the four BUILD rows drops the descriptor presented beside it. So no two words mean the same instruction (44_control.md
R204). -/
def Obligations.DecodedKeyEncodesBack : Prop :=
  ∀ (k : Encoded) (i : Instr), decode k = .ok i →
    i.WellFormed = true ∧
    (encode i = k ∨
      (∃ w d, k = .op11 w d ∧ encode i = .op11 w .absent ∧
        i.row ≠ .buildLocal ∧ i.row ≠ .buildLocalq ∧ i.row ≠ .buildTx ∧ i.row ≠ .buildRemote))

/-- In each format the decoder takes the first row whose `key and mask = match` holds, and rejects a key no row takes
(30_encoding.md R61, R64, R65, R68). -/
def Obligations.DecoderFollowsMatchAndMaskRows : Prop :=
  ∀ k : Encoded, tableRow k = (match decode k with
    | .ok i => some i.row
    | .error _ => none)

/-- Keys written out from the tables of 30_encoding.md, one or more of every format and family. -/
def Obligations.WrittenKeysDecodeToTheirInstruction : Prop :=
  ∀ d : Descriptor,
    decode (.op11 0b000_00000000 d) = .ok (.nop 0x00) ∧
    decode (.op11 0b001_01111110 d) = .ok (.rxb 0x7E) ∧
    decode (.op11 0b010_10101011 d) = .ok (.rxclr 0xAB) ∧
    decode (.op11 0b011_00010001 d) = .ok (.stuff 0x11) ∧
    decode (.op11 0b100_00001000 d) = .ok (.buildLocal d) ∧
    decode (.op11 0b100_00010111 d) = .ok (.buildRemote d) ∧
    decode (.op11 0b100_10001000 d) = .ok (.buildOther 0x88) ∧
    decode (.op11 0b101_00000000 d) = .ok (.fidrst 0x00) ∧
    decode (.op11 0b111_11111111 d) = .ok (.illegal true 0xFF) ∧
    decode (.u9 0b1_01011110) = .ok (.unescXor 0x5E) ∧
    decode (.s8 0b00010011) = .ok .stuffXoff ∧
    decode (.a12 0b000_0_01111110) = .ok .asmStart ∧
    decode (.a12 0b000_1_01111110) = .ok (.asmDrop true 0x7E) ∧
    decode (.a12 0b011_0_11110110) = .ok (.asmCksum false 0xF6)

/-- Exactly the assembler keys 0xA00 to 0xFFF, state codes 5, 6 and 7, select nothing (30_encoding.md R68). -/
def Obligations.AssemblerKeysFromA00SelectNothing : Prop :=
  ∀ k : BitVec 12, (∃ e, decodeA12 k = .error e) ↔ 0xA00 ≤ k.toNat

/-! ## The step and reset -/

/-- After the first reset, a step is exec of the decoded presented word, in the state with that presentation taken off
the port (20_memory.md R48; 44_control.md R204; the port is log 1). -/
def Obligations.StepPerformsThePresentedOperation : Prop :=
  ∀ (s : State) (p : Presented) (rest : List Presented),
    s.hasReset = true → s.port = p :: rest → p.rst = false →
      step s = exec (decodeOp11 p.word p.desc) { s with port := rest }

/-- R250: reset, whatever is presented with it and whatever the state before, puts every register to its reset value and
leaves no outputs; RX_CAP and what the host goes on to present stay (log 1, log 4). And a step that is not reset
never clears `rx_fault`. -/
def Obligations.ResetOverridesThePresentedOperation : Prop :=
  (∀ (s : State) (p : Presented) (rest : List Presented), s.port = p :: rest → p.rst = true →
    step s = .next
      { rxState := .empty, rxEsc := false, rxBuf := [], rxCnt := 0, rxLen := 0, rxValid := false, rxFault := false,
        fidNext := 1, port := rest, out := {}, cfg := s.cfg, hasReset := true }) ∧
  (∀ s t : State, step s = .next t → s.rxFault = true → (∀ p ∈ s.port.head?, p.rst = false) → t.rxFault = true)

/-- R35: the reset value of every register, and what the outputs of R30 read after reset. -/
def Obligations.ResetStateHoldsTheStatedValues : Prop :=
  let s := State.reset
  (s.rxState = .empty ∧ s.rxCnt = 0 ∧ (∀ i, Memory.read s.rxBuf i = none) ∧ s.rxLen = 0 ∧ s.rxValid = false ∧
    s.rxEsc = false ∧ s.rxFault = false ∧ s.fidNext = 1) ∧
  (s.oState = 0 ∧ s.oDone = false ∧ s.oValid = false ∧ s.oEsc = false ∧ s.oFault = false ∧ s.oCnt = 0 ∧ s.oLen = 0 ∧
    s.oRaw = some [] ∧ s.oFidNext = 1) ∧
  (s.oFtype = none ∧ s.oFid = none ∧ s.oCkActual = none ∧ s.oCkExpected = none)

/-- Where the host presents nothing the step is that of a NOP (44_control.md R200; the model's choice, log 2). -/
def Obligations.NothingPresentedActsAsNop : Prop :=
  ∀ s : State, s.hasReset = true → s.port = [] → step s = exec (.nop 0) s

/-- Before the first reset nothing but reset is a step (70_reset_and_hazards.md R251; the stop is the model's, log 5). -/
def Obligations.NoStepBeforeTheFirstReset : Prop :=
  ∀ s : State, s.hasReset = false → (∀ p ∈ s.port.head?, p.rst = false) → step s = .fault .beforeReset

/-- R23: what holds between the registers holds after reset and is kept by every step, whatever is presented. -/
def Obligations.EveryStepKeepsTheRegisterInvariant : Prop :=
  ∀ s t : State, s.Inv → step s = .next t → t.Inv

/-- The invariant holds in the state right after reset (R23). -/
def Obligations.ResetStateMeetsTheRegisterInvariant : Prop := State.reset.Inv

/-- Every presentation has an outcome: from a state that meets the invariant no step stops (60_exceptions.md R237;
44_control.md R204). That there is also a step when nothing is presented, a NOP's, is the model's choice (log 2). -/
def Obligations.EveryPresentationIsAnswered : Prop :=
  ∀ s : State, s.Inv → s.hasReset = true → ∃ t, step s = .next t

/-! ## Control operations -/

/-- R200: NOP changes nothing and reports OK, whatever its immediate. -/
def Obligations.NopOnlyReportsOk : Prop :=
  ∀ (imm : Byte) (d : Descriptor) (s : State),
    decode (.op11 (opWord 0 imm) d) = .ok (.nop imm) ∧
    exec (.nop imm) s = .next { s with out := { status := some .ok } }

/-- R202: RXCLR in any state, faulted or not; every byte of the buffer loses its value; `rx_fault` and the transmit side
are not touched. -/
def Obligations.RxclrDiscardsTheFrame : Prop :=
  ∀ (imm : Byte) (d : Descriptor) (s : State), decode (.op11 (opWord 2 imm) d) = .ok (.rxclr imm) ∧
    ∃ t, exec (.rxclr imm) s = .next t ∧
    t = { s with
      rxState := .empty, rxBuf := [], rxCnt := 0, rxLen := 0, rxValid := false, rxEsc := false
      out := { status := some .ok } } ∧
    (∀ a, Memory.read t.rxBuf a = none) ∧ t.oRaw = some []

/-- R203: FIDRST sets the generator back, and the next draw returns 1. -/
def Obligations.FidrstRestartsTheGenerator : Prop :=
  ∀ (imm : Byte) (w : Descriptor) (s : State), decode (.op11 (opWord 5 imm) w) = .ok (.fidrst imm) ∧
    ∃ t, exec (.fidrst imm) s = .next t ∧
    t = { s with fidNext := 1, out := { status := some .ok } } ∧
    ∀ d : Descriptor, d.fidGiven = false → (chooseFid d t.fidNext).1 = 1

/-- R201: operation codes 6 and 7 are refused with IllegalOp, code 3. -/
def Obligations.IllegalCodesAreRefused : Prop :=
  ∀ (seven : Bool) (imm : Byte) (d : Descriptor) (s : State),
    decode (.op11 (opWord (if seven then 7 else 6) imm) d) = .ok (.illegal seven imm) ∧
    exec (.illegal seven imm) s = .next { s with out := { status := some .illegalOp } } ∧ Status.illegalOp.code = 3

/-- R174: BUILD with any frame type but the four is refused; no ID is drawn, there is no output. -/
def Obligations.OtherFrameTypesAreRefused : Prop :=
  ∀ (ft : Byte) (d : Descriptor) (s : State), ft ≠ 0x08 → ft ≠ 0x09 → ft ≠ 0x10 → ft ≠ 0x17 →
    decode (.op11 (opWord 4 ft) d) = .ok (.buildOther ft) ∧
    exec (.buildOther ft) s = .next { s with out := { status := some .unsupportedVariant } }

/-! ## The byte stuffer -/

/-- R104: STUFF gives one byte, or the escape byte and the XOR with 0x20 for a reserved one, and touches no register. -/
def Obligations.StuffEscapesOneByte : Prop :=
  ∀ (b : Byte) (d : Descriptor) (s : State),
    decode (.op11 (opWord 3 b) d) = .ok (.stuff b) ∧
    exec (.stuff b) s = .next
      { s with
        out :=
          { status := some .ok
            sOut := some (if b = 0x7E ∨ b = 0x7D ∨ b = 0x11 ∨ b = 0x13 then [0x7D, b ^^^ 0x20] else [b]) } }

/-- The five stuffer rows with the bytes of 30_encoding.md R65, added to the outputs of the operation they are a case of
(log 6). -/
def Obligations.StufferRowsGiveTheirBytes : Prop :=
  ∀ s : State,
    exec .stuffDelim s = .next { s with out := { s.out with sOut := some [0x7D, 0x5E] } } ∧
    exec .stuffEsc s = .next { s with out := { s.out with sOut := some [0x7D, 0x5D] } } ∧
    exec .stuffXon s = .next { s with out := { s.out with sOut := some [0x7D, 0x31] } } ∧
    exec .stuffXoff s = .next { s with out := { s.out with sOut := some [0x7D, 0x33] } } ∧
    ∀ b : Byte, b ≠ 0x7E → b ≠ 0x7D → b ≠ 0x11 → b ≠ 0x13 →
      exec (.stuffPass b) s = .next { s with out := { s.out with sOut := some [b] } }

/-- R101: the three unstuffer rows where the flag and the byte select them: what is emitted, with its tag, and the new
flag; no other register changes. -/
def Obligations.UnstufferRowsEmitAndWriteTheFlag : Prop :=
  ∀ s : State,
    (∀ b : Byte, s.rxEsc = true →
      exec (.unescXor b) s = .next
        { s with rxEsc := false, out := { s.out with uOut := some (some (b ^^^ 0x20, true)) } }) ∧
    (s.rxEsc = false →
      exec .unescMark s = .next { s with rxEsc := true, out := { s.out with uOut := some none } }) ∧
    (∀ b : Byte, s.rxEsc = false → b ≠ 0x7D →
      exec (.unescPass b) s = .next
        { s with rxEsc := false, out := { s.out with uOut := some (some (b, false)) } })

/-- The micro-operations reach a run through the operations they are cases of: STUFF performs the row its byte selects
(30_encoding.md R65), an RXB that is neither refused nor faulted performs the unstuffer row and then, when a byte
was emitted, the assembler row its key selects (R64, R68; 42_frame_assembler.md R130). -/
def Obligations.OperationsPerformTheRowsTheirKeysSelect : Prop :=
  (∀ (b : Byte) (s : State),
    exec (.stuff b) s = exec (decodeS8 b) { s with out := { status := some .ok } }) ∧
  (∀ (b : Byte) (s : State), s.rxFault = false → s.rxState ≠ .complete → (s.rxState = .empty ∨ s.bufFull = false) →
    ∃ u, exec (decodeU9 (u9Key s.rxEsc b)) { s with out := { status := some .ok } } = .next u ∧
      (u.out.uOut = some none →
        exec (.rxb b) s = .next { u with out := { u.out with done := some false, events := some [] } }) ∧
      (∀ c e, u.out.uOut = some (some (c, e)) →
        ∃ i, decodeA12 (a12Key s.rxState.code e c) = .ok i ∧ exec (.rxb b) s = exec i u))

/-! ## The assembler's rows -/

/-- R131: a frame begins with the delimiter at index 0; the row is selected in Empty on an unescaped 0x7E, and by no other
key. -/
def Obligations.AsmStartBeginsAFrame : Prop :=
  (∀ (code : BitVec 3) (e : Bool) (c : Byte),
    decodeA12 (a12Key code e c) = .ok .asmStart ↔ (code = 0 ∧ e = false ∧ c = 0x7E)) ∧
  ∀ s : State, s.rxState = .empty →
    exec .asmStart s = .next
      { s with
        rxBuf := Memory.write s.rxBuf 0 0x7E, rxCnt := 1, rxState := .awaitingLength
        out := { s.out with done := some false, events := some [] } }

/-- R132: any other byte in Empty is dropped, stored nowhere, and reported with its tag. -/
def Obligations.AsmDropReportsTheDroppedByte : Prop :=
  ∀ (e : Bool) (c : Byte) (s : State), s.rxState = .empty → ¬(c = 0x7E ∧ e = false) →
    exec (.asmDrop e c) s = .next
      { s with out := { s.out with done := some false, events := some [.malformedStart c e] } }

/-- R133: the byte is appended; when it is the third the length is parsed big-endian and the state moves on, whatever the
length; the tag does not matter. The buffer is not full, as RXB has checked (R139). -/
def Obligations.AsmLenGathersAndParsesTheLength : Prop :=
  ∀ (e : Bool) (c : Byte) (s : State), s.rxState = .awaitingLength → s.bufFull = false →
    (s.rxCnt ≠ 2 →
      exec (.asmLen e c) s = .next
        { s with
          rxBuf := Memory.write s.rxBuf s.rxCnt c, rxCnt := s.rxCnt + 1
          out := { s.out with done := some false, events := some [] } }) ∧
    (∀ hi : Byte, s.rxCnt = 2 → Memory.read s.rxBuf 1 = some hi →
      ∃ len : BitVec 16, len.toNat = hi.toNat * 256 + c.toNat ∧
        exec (.asmLen e c) s = .next
          { s with
            rxBuf := Memory.write s.rxBuf 2 c, rxCnt := 3, rxLen := len, rxState := .awaitingBody
            out := { s.out with done := some false, events := some [] } })

/-- R134: the byte is appended and the count, after it, is compared with `rx_len + 3` as integers. -/
def Obligations.AsmBodyGathersThePayload : Prop :=
  ∀ (e : Bool) (c : Byte) (s : State), s.rxState = .awaitingBody → s.bufFull = false →
    exec (.asmBody e c) s = .next
      { s with
        rxBuf := Memory.write s.rxBuf s.rxCnt c, rxCnt := s.rxCnt + 1
        rxState := if s.rxCnt + 1 = s.rxLen.toNat + 3 then .awaitingChecksum else .awaitingBody
        out := { s.out with done := some false, events := some [] } }

/-- R135: the checksum byte completes the frame, valid or not; it is valid exactly when payload and checksum sum to 0xFF
modulo 256, and if not the event carries the computed and the received checksum. The invariant R23 gives the payload
bytes their values. -/
def Obligations.AsmCksumValidatesTheFrame : Prop :=
  ∀ (e : Bool) (c : Byte) (s : State), s.Inv → s.rxState = .awaitingChecksum → s.bufFull = false →
    ∃ payload : List Byte, s.slice 3 (s.rxLen.toNat + 3) = some payload ∧ payload.length = s.rxLen.toNat ∧
      exec (.asmCksum e c) s = .next
        { s with
          rxBuf := Memory.write s.rxBuf s.rxCnt c, rxCnt := s.rxCnt + 1, rxState := .complete
          rxValid := decide ((byteSum payload + c.toNat) % 256 = 0xFF)
          out :=
            { s.out with
              done := some true
              events := some (if (byteSum payload + c.toNat) % 256 = 0xFF then []
                else [.checksumMismatch (cksum payload) c]) } }

/-- R136: in Complete a byte is refused with RxBusy, as the row and as the operation, and nothing changes, not even
`rx_esc`. -/
def Obligations.CompleteFrameRefusesBytes : Prop :=
  ∀ (b c : Byte) (e : Bool) (s : State), s.rxState = .complete →
    exec (.asmHold e c) s = .next { s with out := { status := some .rxBusy } } ∧
    (s.rxFault = false → exec (.rxb b) s = .next { s with out := { status := some .rxBusy } })

/-- A micro-operation stops by name where its key does not select it, be it for the flag, the state or the byte, and so does
BUILD.other on the four admitted frame types; an assembler row that would append to a full buffer takes the overflow
fault instead (10_state.md R20; 30_encoding.md R61, R64, R65, R68). Both are the model's form, log 6 and log 9. -/
def Obligations.RowsStopWhereTheyAreNotSelected : Prop :=
  ∀ (b c : Byte) (e : Bool) (s : State),
    (s.rxEsc = false → exec (.unescXor b) s = .refused .notSelected) ∧
    (s.rxEsc = true → exec .unescMark s = .refused .notSelected ∧ exec (.unescPass b) s = .refused .notSelected) ∧
    (s.rxState ≠ .empty → exec .asmStart s = .refused .notSelected ∧ exec (.asmDrop e c) s = .refused .notSelected) ∧
    (s.rxState ≠ .awaitingLength → exec (.asmLen e c) s = .refused .notSelected) ∧
    (s.rxState ≠ .awaitingBody → exec (.asmBody e c) s = .refused .notSelected) ∧
    (s.rxState ≠ .awaitingChecksum → exec (.asmCksum e c) s = .refused .notSelected) ∧
    (s.rxState ≠ .complete → exec (.asmHold e c) s = .refused .notSelected) ∧
    exec (.unescPass 0x7D) s = .refused .notSelected ∧
    exec (.asmDrop false 0x7E) s = .refused .notSelected ∧
    (b = 0x7E ∨ b = 0x7D ∨ b = 0x11 ∨ b = 0x13 → exec (.stuffPass b) s = .refused .notSelected) ∧
    (b = 0x08 ∨ b = 0x09 ∨ b = 0x10 ∨ b = 0x17 → exec (.buildOther b) s = .refused .notSelected) ∧
    (s.bufFull = true →
      (s.rxState = .awaitingLength →
        exec (.asmLen e c) s = .next { s with rxFault := true, out := { status := some .rxOverflow } }) ∧
      (s.rxState = .awaitingBody →
        exec (.asmBody e c) s = .next { s with rxFault := true, out := { status := some .rxOverflow } }) ∧
      (s.rxState = .awaitingChecksum →
        exec (.asmCksum e c) s = .next { s with rxFault := true, out := { status := some .rxOverflow } }))

/-! ## RXB -/

/-- A wire byte 0x7D with the flag clear emits nothing: only `rx_esc` changes, also on a full buffer, and the assembler
is not stepped (42_frame_assembler.md R130 corner case a, R139). -/
def Obligations.RxbTakesAnEscapeMarker : Prop :=
  ∀ s : State, s.rxFault = false → s.rxState ≠ .complete → s.rxEsc = false →
    exec (.rxb 0x7D) s = .next
      { s with
        rxEsc := true
        out := { status := some .ok, uOut := some none, done := some false, events := some [] } }

/-- In Empty an emitted byte starts a frame when it is an unescaped delimiter and is dropped with a MalformedStart
otherwise, with no limit (42_frame_assembler.md R130, R131, R132; 70_reset_and_hazards.md R261, R266). -/
def Obligations.RxbInEmptyStartsAFrameOrDrops : Prop :=
  ∀ (b c : Byte) (e : Bool) (s : State), s.rxFault = false → s.rxState = .empty → Emits b s.rxEsc c e →
    (c = 0x7E → e = false →
      exec (.rxb b) s = .next
        { s with
          rxEsc := false, rxBuf := Memory.write s.rxBuf 0 0x7E, rxCnt := 1, rxState := .awaitingLength
          out := { status := some .ok, uOut := some (some (c, e)), done := some false, events := some [] } }) ∧
    (¬(c = 0x7E ∧ e = false) →
      exec (.rxb b) s = .next
        { s with
          rxEsc := false
          out :=
            { status := some .ok, uOut := some (some (c, e)), done := some false
              events := some [.malformedStart c e] } })

/-- Inside a frame an emitted byte is appended at `rx_cnt` and the state moves as the source's table says
(42_frame_assembler.md R137, rows AwaitingLength, AwaitingBody, AwaitingChecksum), a delimiter like any other byte
(70_reset_and_hazards.md R263). -/
def Obligations.RxbInsideAFrameAppendsTheByte : Prop :=
  ∀ (b c : Byte) (e : Bool) (s : State), s.Inv → s.rxFault = false → s.rxState ≠ .empty → s.rxState ≠ .complete →
    s.bufFull = false → Emits b s.rxEsc c e →
    ∃ t, exec (.rxb b) s = .next t ∧
      t.rxBuf = Memory.write s.rxBuf s.rxCnt c ∧ t.rxCnt = s.rxCnt + 1 ∧ t.rxEsc = false ∧ t.rxFault = false ∧
      t.fidNext = s.fidNext ∧ t.out.status = some .ok ∧ t.out.uOut = some (some (c, e)) ∧
      t.rxState =
        (match s.rxState with
        | .awaitingLength => if s.rxCnt + 1 = 3 then .awaitingBody else .awaitingLength
        | .awaitingBody => if s.rxCnt + 1 = s.rxLen.toNat + 3 then .awaitingChecksum else .awaitingBody
        | _ => .complete) ∧
      (s.rxState ≠ .awaitingLength ∨ s.rxCnt + 1 ≠ 3 → t.rxLen = s.rxLen) ∧
      (s.rxState = .awaitingLength → s.rxCnt + 1 = 3 → t.declaredLength = some t.rxLen) ∧
      (s.rxState ≠ .awaitingChecksum → t.rxValid = false ∧ t.out.done = some false ∧ t.out.events = some []) ∧
      (s.rxState = .awaitingChecksum → t.out.done = some true ∧ (t.slice 3 t.rxCnt).map valid = some t.rxValid ∧
        (t.rxValid = true → t.out.events = some []) ∧
        (t.rxValid = false → ∃ x y, t.oCkExpected = some x ∧ t.oCkActual = some y ∧
          t.out.events = some [.checksumMismatch x y]))

/-- R139: an emitted byte that would be appended at `rx_cnt = RX_CAP` sets `rx_fault` and changes nothing else; from then
on every RXB is refused, whatever the state, and RXCLR empties the assembler without clearing the fault. Without a
capacity it cannot happen. -/
def Obligations.RxbOnAFullBufferFaults : Prop :=
  (∀ (b c : Byte) (e : Bool) (s : State), s.rxFault = false → s.rxState ≠ .empty → s.rxState ≠ .complete →
    s.cfg.rxCap = .finite s.rxCnt → Emits b s.rxEsc c e →
    exec (.rxb b) s = .next { s with rxFault := true, out := { status := some .rxOverflow } }) ∧
  (∀ (b : Byte) (s : State), s.rxFault = true → exec (.rxb b) s = .next { s with out := { status := some .rxOverflow } }) ∧
  (∀ (imm : Byte) (s : State), s.rxFault = true →
    ∃ t, exec (.rxclr imm) s = .next t ∧ t.rxState = .empty ∧ t.rxCnt = 0 ∧ t.rxFault = true) ∧
  (∀ (b : Byte) (s t : State), s.cfg.rxCap = .inf → s.rxFault = false → exec (.rxb b) s = .next t →
    t.rxFault = false)

/-- A declared length of 0 traps the assembler: after any accepted byte it is still AwaitingBody, and no frame completes
(42_frame_assembler.md R134 corner case c; 70_reset_and_hazards.md R262). -/
def Obligations.ZeroLengthFrameNeverCompletes : Prop :=
  ∀ (b : Byte) (s : State), s.Inv → s.rxState = .awaitingBody → s.rxLen = 0 →
    ∃ t, exec (.rxb b) s = .next t ∧ t.rxState = .awaitingBody ∧ t.rxLen = 0 ∧ t.out.done ≠ some true ∧
      (s.rxFault = false → s.bufFull = false → ∀ c e, Emits b s.rxEsc c e → t.rxCnt = s.rxCnt + 1)

/-! ## Rules over all instructions -/

/-- Within one frame `rx_state` keeps its value or moves to the next one in the order; only RXCLR (and reset, which is no
instruction) returns to Empty (10_state.md R21). -/
def Obligations.RxStateMovesForwardOneAtATime : Prop :=
  ∀ (i : Instr) (s t : State), exec i s = .next t → i.row ≠ .rxclr →
    t.rxState.code.toNat = s.rxState.code.toNat ∨ t.rxState.code.toNat = s.rxState.code.toNat + 1

/-- An operation ends in exactly one of the three ways of 60_exceptions.md R210: performed with OK; refused with a code
and nothing changed (R218); or faulted, with `rx_fault` the only change. A refusal has no other output (R31). -/
def Obligations.RefusedOperationChangesNothing : Prop :=
  ∀ (i : Instr) (s t : State), i.isOperation = true → exec i s = .next t →
    t.out.status = some .ok ∨
    (∃ x, x ≠ .ok ∧ t = { s with out := { status := some x } }) ∨
    (s.rxFault = false ∧ t = { s with rxFault := true, out := { status := some .rxOverflow } })

/-- An operation reports at most one event, and none beside a refusal; a MalformedStart leaves the assembler in Empty, a
ChecksumMismatch leaves it in Complete with `rx_valid = 0` (60_exceptions.md R212, R217, R218). -/
def Obligations.AtMostOneEventAndNoneWithARefusal : Prop :=
  ∀ (i : Instr) (s t : State), i.isOperation = true → exec i s = .next t →
    (∀ ev, t.out.events = some ev → ev.length ≤ 1 ∧ t.out.status = some .ok) ∧
    (∀ c e, t.out.events = some [.malformedStart c e] → s.rxState = .empty ∧ t.rxState = .empty) ∧
    (∀ x y, t.out.events = some [.checksumMismatch x y] → t.rxState = .complete ∧ t.rxValid = false)

/-- Two operations of different sides commute: either order gives the same state, and each gives the same outputs
(20_memory.md R50). -/
def Obligations.ReceiveAndTransmitCommute : Prop :=
  ∀ (r x : Instr) (s sr : State), isReceive r = true → isTransmit x = true → x.WellFormed = true →
    exec r s = .next sr →
    ∃ srx sx sxr, exec x sr = .next srx ∧ exec x s = .next sx ∧ exec r sx = .next sxr ∧
      { srx with out := {} } = { sxr with out := {} } ∧ sxr.out = sr.out ∧ srx.out = sx.out

/-! ## Frames -/

/-- What the operations of the transmit side, NOP, the illegal codes and the stuffer rows leave alone: every receive
register, every byte of the buffer, and the parameter. `fid_next` changes only by FIDRST and by an accepted BUILD
that gives no ID (10_state.md R18, R22; 43_frame_builder.md R160, R166). -/
def Obligations.TransmitSideLeavesTheReceiveSideAlone : Prop :=
  ∀ (i : Instr) (s t : State),
    (isTransmit i = true ∨ i.row = .nop ∨ i.row = .illegal ∨ i.row = .stuffDelim ∨ i.row = .stuffEsc ∨
      i.row = .stuffXon ∨ i.row = .stuffXoff ∨ i.row = .stuffPass) →
    exec i s = .next t →
    SameReceive s t ∧ SameAround s t ∧ (∀ a, Memory.read t.rxBuf a = Memory.read s.rxBuf a) ∧
    (t.fidNext = s.fidNext ∨ i.row = .fidrst ∨
      ∃ d, (i = .buildLocal d ∨ i = .buildLocalq d ∨ i = .buildTx d ∨ i = .buildRemote d) ∧ d.fidGiven = false ∧
        t.out.status = some .ok)

/-- What RXB, the unstuffer's rows and the assembler's rows leave alone: the transmit side and the parameter; every byte
of the buffer but the one stored at 0 by a start and at `rx_cnt` by an append; `rx_len` but for the length parse;
`rx_valid` but for the checksum; `rx_esc` but for the unstuffer; `rx_fault` but for an overflow; and the whole buffer
where nothing is stored (10_state.md R12 to R17; 20_memory.md R45, R50). -/
def Obligations.ReceiveSideFrame : Prop :=
  ∀ (i : Instr) (s t : State),
    (i.row = .rxb ∨ i.row = .unescXor ∨ i.row = .unescMark ∨ i.row = .unescPass ∨ i.row = .asmStart ∨
      i.row = .asmDrop ∨ i.row = .asmLen ∨ i.row = .asmBody ∨ i.row = .asmCksum ∨ i.row = .asmHold) →
    exec i s = .next t →
    t.fidNext = s.fidNext ∧ SameAround s t ∧
    (∀ a, a ≠ (if s.rxState = .empty then 0 else s.rxCnt) → Memory.read t.rxBuf a = Memory.read s.rxBuf a) ∧
    ((i.row = .unescXor ∨ i.row = .unescMark ∨ i.row = .unescPass ∨ i.row = .asmDrop ∨ i.row = .asmHold) →
      t.rxBuf = s.rxBuf ∧ t.rxCnt = s.rxCnt ∧ t.rxState = s.rxState) ∧
    (t.rxState = s.rxState → t.rxCnt = s.rxCnt → t.rxBuf = s.rxBuf) ∧
    (t.rxLen = s.rxLen ∨ (s.rxState = .awaitingLength ∧ t.rxState = .awaitingBody)) ∧
    (t.rxValid = s.rxValid ∨ (s.rxState = .awaitingChecksum ∧ t.rxState = .complete)) ∧
    (t.rxFault = s.rxFault ∨ t.out.status = some .rxOverflow) ∧
    ((i.row = .asmStart ∨ i.row = .asmDrop ∨ i.row = .asmLen ∨ i.row = .asmBody ∨ i.row = .asmCksum ∨
      i.row = .asmHold) → t.rxEsc = s.rxEsc)

/-! ## The builder -/

/-- R170: BUILD.LOCAL frames the name and the parameter under type 0x08, with the given or the drawn ID; a parameter that
is out of range and a payload above 65535 bytes are refused. -/
def Obligations.BuildLocalFramesNameThenParameter : Prop :=
  ∀ (d : Descriptor) (s : State),
    decode (.op11 0x408 d) = .ok (.buildLocal d) ∧
    (∀ p, param d = .ok p → 2 + (d.name ++ p).length ≤ 65535 →
      exec (.buildLocal d) s = .next (builtState 0x08 d (d.name ++ p) s)) ∧
    (∀ p, param d = .ok p → 65535 < 2 + (d.name ++ p).length →
      exec (.buildLocal d) s = .next (refusedState .buildTooLong s)) ∧
    (∀ x, param d = .error x → x = .intRange ∧ exec (.buildLocal d) s = .next (refusedState .intRange s))

/-- R171: BUILD.LOCALQ is BUILD.LOCAL with frame type 0x09. -/
def Obligations.BuildLocalqFramesNameThenParameter : Prop :=
  ∀ (d : Descriptor) (s : State),
    decode (.op11 0x409 d) = .ok (.buildLocalq d) ∧
    (∀ p, param d = .ok p → 2 + (d.name ++ p).length ≤ 65535 →
      exec (.buildLocalq d) s = .next (builtState 0x09 d (d.name ++ p) s)) ∧
    (∀ p, param d = .ok p → 65535 < 2 + (d.name ++ p).length →
      exec (.buildLocalq d) s = .next (refusedState .buildTooLong s)) ∧
    (∀ x, param d = .error x → x = .intRange ∧ exec (.buildLocalq d) s = .next (refusedState .intRange s))

/-- R172: BUILD.TX needs all four address fields, then frames them and the data under type 0x10; the data may have up to
65521 bytes. -/
def Obligations.BuildTxFramesAddressesThenData : Prop :=
  ∀ (d : Descriptor) (s : State),
    decode (.op11 0x410 d) = .ok (.buildTx d) ∧
    (d.destGiven = true → d.netGiven = true → d.radiusGiven = true → d.optGiven = true → d.data.length ≤ 65521 →
      exec (.buildTx d) s = .next
        (builtState 0x10 d
          (d.dest.toList ++ [d.net.extractLsb' 8 8, d.net.extractLsb' 0 8] ++ [d.radius, d.opt] ++ d.data) s)) ∧
    (d.destGiven = true → d.netGiven = true → d.radiusGiven = true → d.optGiven = true → 65521 < d.data.length →
      exec (.buildTx d) s = .next (refusedState .buildTooLong s)) ∧
    (d.destGiven = false ∨ d.netGiven = false ∨ d.radiusGiven = false ∨ d.optGiven = false →
      exec (.buildTx d) s = .next (refusedState .missingField s))

/-- R173: BUILD.REMOTE takes each of its three defaults independently, then the name and the parameter, under type
0x17. -/
def Obligations.BuildRemoteTakesItsDefaults : Prop :=
  ∀ (d : Descriptor) (s : State),
    let addr :=
      (if d.destGiven then d.dest.toList else [0x00, 0x00, 0x00, 0x00, 0x00, 0x00, 0xFF, 0xFF]) ++
      (if d.netGiven then [d.net.extractLsb' 8 8, d.net.extractLsb' 0 8] else [0xFF, 0xFE]) ++
      [if d.optGiven then d.opt else 0x02]
    decode (.op11 0x417 d) = .ok (.buildRemote d) ∧
    (∀ p, param d = .ok p → 2 + (addr ++ d.name ++ p).length ≤ 65535 →
      exec (.buildRemote d) s = .next (builtState 0x17 d (addr ++ d.name ++ p) s)) ∧
    (∀ p, param d = .ok p → 65535 < 2 + (addr ++ d.name ++ p).length →
      exec (.buildRemote d) s = .next (refusedState .buildTooLong s)) ∧
    (∀ x, param d = .error x → x = .intRange ∧ exec (.buildRemote d) s = .next (refusedState .intRange s))

/-- R165: delimiter, big-endian length of the payload, payload, checksum over the unescaped payload; with escaping on,
everything after the delimiter and nothing else goes through the stuffer. -/
def Obligations.FrameLayoutAndEscaping : Prop :=
  ∀ (ft fid : Byte) (fields : List Byte), 2 + fields.length ≤ 65535 →
    ∃ hi lo : Byte, hi.toNat * 256 + lo.toNat = 2 + fields.length ∧
      frame ft fid fields true = [0x7E] ++ [hi, lo] ++ ([ft, fid] ++ fields) ++ [cksum ([ft, fid] ++ fields)] ∧
      frame ft fid fields false =
        [0x7E] ++ escape ([hi, lo] ++ ([ft, fid] ++ fields) ++ [cksum ([ft, fid] ++ fields)])

/-- R176: the size of a built frame with and without escaping, its least and greatest size, and that only its first byte
is a delimiter when it is escaped. -/
def Obligations.BuiltFrameSize : Prop :=
  ∀ (ft fid : Byte) (fields : List Byte), 2 + fields.length ≤ 65535 →
    let n := 2 + fields.length
    let r := reservedCount ((frame ft fid fields true).drop 1)
    (frame ft fid fields true).length = n + 4 ∧ (frame ft fid fields false).length = n + 4 + r ∧
    6 ≤ n + 4 ∧ n + 4 ≤ 65539 ∧ (frame ft fid fields false).length ≤ 131077 ∧
    (∀ noesc, (frame ft fid fields noesc).head? = some 0x7E) ∧
    (∀ b ∈ (frame ft fid fields false).drop 1, b ≠ 0x7E ∧ b ≠ 0x11 ∧ b ≠ 0x13)

/-- R175: a frame the block builds, fed to the receive side between frames, is assembled again: Complete, valid, with the
same type, ID and fields, and no event, provided it was escaped or has no 0x7D after its delimiter. -/
def Obligations.BuiltFrameAssemblesBack : Prop :=
  ∀ (i : Instr) (ft : Byte) (d : Descriptor) (fs : List Byte) (s t r : State) (w : List Byte) (f : Byte),
    ((i = .buildLocal d ∧ ft = 0x08 ∧ fieldsLocal d = .ok fs) ∨ (i = .buildLocalq d ∧ ft = 0x09 ∧ fieldsLocal d = .ok fs) ∨
      (i = .buildTx d ∧ ft = 0x10 ∧ fieldsTx d = .ok fs) ∨ (i = .buildRemote d ∧ ft = 0x17 ∧ fieldsRemote d = .ok fs)) →
    exec i s = .next t → t.out.txOut = some w → t.out.txFid = some f →
    r.Clean → Capacity.holds r.cfg.rxCap (fs.length + 6) = true →
    (d.noesc = false ∨ ∀ b ∈ (unescapedFrame ([ft, f] ++ fs)).drop 1, b ≠ 0x7D) →
    ∃ q, assemble w r = ⟨q, true, w.length, []⟩ ∧
      q.rxState = .complete ∧ q.rxValid = true ∧ q.oRaw = some (unescapedFrame ([ft, f] ++ fs)) ∧
      q.oLen.toNat = fs.length + 2 ∧ q.oFtype = some ft ∧ q.oFid = some f ∧ q.slice 5 (3 + q.oLen.toNat) = some fs ∧
      q.rxEsc = false

/-- A frame with any payload of 1 to 65535 bytes and any checksum byte, escaped, is assembled to its last wire byte: it is
Complete, valid exactly when the checksum is the computed one, and otherwise reports both (42_frame_assembler.md
R130 to R135, R140; 41_checksum.md R122). -/
def Obligations.EscapedFrameAssemblesWithAnyChecksum : Prop :=
  ∀ (payload : List Byte) (c hi lo : Byte) (r : State),
    1 ≤ payload.length → hi.toNat * 256 + lo.toNat = payload.length → r.Clean →
    Capacity.holds r.cfg.rxCap (payload.length + 4) = true →
    ∃ q, assemble ([0x7E] ++ escape ([hi, lo] ++ payload ++ [c])) r =
        ⟨q, true, (escape ([hi, lo] ++ payload ++ [c])).length + 1,
          if c = cksum payload then [] else [.checksumMismatch (cksum payload) c]⟩ ∧
      q.rxState = .complete ∧ q.rxValid = decide (c = cksum payload) ∧
      q.oRaw = some ([0x7E] ++ [hi, lo] ++ payload ++ [c]) ∧ q.rxEsc = false ∧ q.fidNext = r.fidNext

/-- One call with all the bytes is the same as calls with its parts: where the first part neither completes a frame nor
meets a refusal, the rest goes on from the state it leaves (42_frame_assembler.md R138, R141). -/
def Obligations.AssembleInPartsIsAssembleAtOnce : Prop :=
  ∀ (xs ys : List Byte) (s : State),
    let a := assemble xs s
    ((a.completed = true ∨ a.consumed < xs.length) → assemble (xs ++ ys) s = a) ∧
    (a.completed = false → a.consumed = xs.length →
      assemble (xs ++ ys) s =
        ⟨(assemble ys a.state).state, (assemble ys a.state).completed, xs.length + (assemble ys a.state).consumed,
          a.events ++ (assemble ys a.state).events⟩)

/-! ## Laws of the codecs -/

/-- R106: the round trip for every buffer, from the clear flag, with the tag set exactly on the reserved bytes; from
a set flag it fails. -/
def Obligations.UnescapeInvertsEscape : Prop :=
  (∀ buf : List Byte, unescape (escape buf) false = (buf.map fun b => (b, isReserved b), false)) ∧
  unescape (escape [0x7E]) true = ([(0x5D, true), (0x5E, false)], false)

/-- R107: the output of escape has no 0x7E, 0x11 or 0x13, and after every 0x7D comes one of the four images. -/
def Obligations.EscapeLeavesNoStructure : Prop :=
  ∀ buf : List Byte,
    (∀ b ∈ escape buf, b ≠ 0x7E ∧ b ≠ 0x11 ∧ b ≠ 0x13) ∧
    (∀ pre post : List Byte, escape buf = pre ++ 0x7D :: post →
      ∃ y rest, post = y :: rest ∧ (y = 0x5E ∨ y = 0x5D ∨ y = 0x31 ∨ y = 0x33))

/-- The checksum formula (41_checksum.md R120), and that an 8-bit accumulator that wraps gives its complement (R125). -/
def Obligations.ChecksumComplementsTheSum : Prop :=
  ∀ p : List Byte, (cksum p).toNat = 0xFF - byteSum p % 256 ∧ cksum p = ~~~(p.foldl (· + ·) 0)

/-- R122: VALID accepts exactly the computed checksum; so in Complete `rx_valid` says whether the two checksum outputs
agree, and a ChecksumMismatch carries those two outputs. -/
def Obligations.ValidExactlyForTheComputedChecksum : Prop :=
  (∀ (p : List Byte) (c : Byte), valid (p ++ [c]) = true ↔ c = cksum p) ∧
  (∀ s : State, s.Inv → s.rxState = .complete →
    (s.oCkActual.isSome = true ∧ (s.rxValid = true ↔ s.oCkActual = s.oCkExpected))) ∧
  (∀ (e : Bool) (c : Byte) (s t : State) (x y : Byte), s.Inv → exec (.asmCksum e c) s = .next t →
    t.out.events = some [.checksumMismatch x y] → t.oCkExpected = some x ∧ t.oCkActual = some y)

/-- Inverting any one bit of any one byte of a payload with its checksum makes VALID false; two changes can cancel
(41_checksum.md R124). -/
def Obligations.SingleBitFlipIsAlwaysDetected : Prop :=
  (∀ (p : List Byte) (k i : Nat) (b : Byte), k < 8 → (p ++ [cksum p])[i]? = some b →
    valid ((p ++ [cksum p]).set i (b ^^^ (1#8 <<< k))) = false) ∧
  valid [0x08, 0x01, 0xF6] = true ∧ valid [0x09, 0x00, 0xF6] = true

/-- R160: from reset the draws are 1, 2, …, 255, 1, 2, … and never 0; a draw is what a BUILD without an ID takes. -/
def Obligations.FrameIdsCycleFromOneTo255 : Prop :=
  (∀ n : Nat, ((fidAfter^[n]) State.reset.fidNext).toNat = n % 255 + 1) ∧
  (∀ (d : Descriptor) (v : Byte), d.fidGiven = false → chooseFid d v = (v, fidAfter v))

/-- R161: an integer parameter is big-endian in 1, 2 or 4 bytes by magnitude, or in its explicit width; what does not fit
is refused and never truncated. -/
def Obligations.IntegersAreBigEndianOrRefused : Prop :=
  (∀ v w : Nat, 1 ≤ w → w ≤ 8 → v < 2 ^ (8 * w) →
    ∃ bs, int2bytesSized v w = .ok bs ∧ bs.length = w ∧ beValue bs = v) ∧
  (∀ v w : Nat, (w < 1 ∨ 8 < w ∨ 2 ^ (8 * w) ≤ v) → int2bytesSized v w = .error .intRange) ∧
  (∀ v : Nat, v < 2 ^ 32 →
    ∃ bs, int2bytesAuto v = .ok bs ∧ beValue bs = v ∧
      bs.length = (if v < 2 ^ 8 then 1 else if v < 2 ^ 16 then 2 else 4)) ∧
  (∀ v : Nat, 2 ^ 32 ≤ v → int2bytesAuto v = .error .intRange)

/-! ## Operands and outputs -/

/-- R163: the parameter of a command by its kind: none, the bytes as given, an integer of automatic width, an integer of the
given width. -/
def Obligations.ParameterFollowsItsKind : Prop :=
  ∀ d : Descriptor,
    (d.paramKind = .absent → param d = .ok []) ∧
    (d.paramKind = .bytes → param d = .ok d.paramBytes) ∧
    (d.paramKind = .intAuto → param d = int2bytesAuto d.paramInt.toNat) ∧
    (d.paramKind = .intSized → param d = int2bytesSized d.paramInt.toNat d.paramW.toNat)

/-- Operands a row ignores: the immediates of NOP, RXCLR, FIDRST and the illegal codes; the whole descriptor beside a word
that decodes to none of the four BUILD operations; and for each of the four, every descriptor field its variant does not
use, the frame ID and the address fields that are not given, and the parameter operands that `param_kind` does not
select: two descriptors that agree on what is left answer the same (30_encoding.md R61, R66). -/
def Obligations.IgnoredOperandsHaveNoEffect : Prop :=
  (∀ (a b : Byte) (p q : Bool) (s : State),
    exec (.nop a) s = exec (.nop b) s ∧ exec (.rxclr a) s = exec (.rxclr b) s ∧
    exec (.fidrst a) s = exec (.fidrst b) s ∧ exec (.illegal p a) s = exec (.illegal q b) s) ∧
  (∀ (w : BitVec 11) (d x : Descriptor), w ≠ 0x408 → w ≠ 0x409 → w ≠ 0x410 → w ≠ 0x417 →
    decode (.op11 w d) = decode (.op11 w x)) ∧
  ∀ (d x : Descriptor) (s : State), SameCommon d x →
    (d.name = x.name → SameParam d x →
      exec (.buildLocal d) s = exec (.buildLocal x) s ∧ exec (.buildLocalq d) s = exec (.buildLocalq x) s) ∧
    (SameAddress d x → d.radiusGiven = x.radiusGiven → (d.radiusGiven = true → d.radius = x.radius) →
      d.data = x.data → exec (.buildTx d) s = exec (.buildTx x) s) ∧
    (SameAddress d x → d.name = x.name → SameParam d x → exec (.buildRemote d) s = exec (.buildRemote x) s)

/-- In a state that meets the invariant the outputs of 10_state.md R30 have a value exactly where the table says so, and
`o_raw` is the `rx_cnt` buffered bytes. -/
def Obligations.OutputsHaveAValueExactlyWhereDefined : Prop :=
  ∀ s : State, s.Inv →
    (∃ raw, s.oRaw = some raw ∧ raw.length = s.rxCnt ∧ ∀ i, raw[i]? = Memory.read s.rxBuf i) ∧
    (s.oFtype.isSome = true ↔ 4 ≤ s.rxCnt) ∧
    (s.oFid.isSome = true ↔ 5 ≤ s.rxCnt ∧ 2 ≤ s.rxLen.toNat) ∧
    (s.oCkActual.isSome = true ↔ s.rxState = .complete) ∧
    (s.oCkExpected.isSome = true ↔ s.rxState = .complete)
end

