-- ==== Sys2Proof/Laws/State.lean ====
section
/-! SUPPORT. One lemma per field per shared update of State (Machine/Ops.lean), true by rfl and tagged simp, so that no proof
unfolds a record update. -/

namespace Sys2Proof.Machine.State

variable (s : State)

@[simp] theorem okOut_rxState : (s.okOut).rxState = s.rxState := rfl
@[simp] theorem okOut_rxEsc : (s.okOut).rxEsc = s.rxEsc := rfl
@[simp] theorem okOut_rxBuf : (s.okOut).rxBuf = s.rxBuf := rfl
@[simp] theorem okOut_rxCnt : (s.okOut).rxCnt = s.rxCnt := rfl
@[simp] theorem okOut_rxLen : (s.okOut).rxLen = s.rxLen := rfl
@[simp] theorem okOut_rxValid : (s.okOut).rxValid = s.rxValid := rfl
@[simp] theorem okOut_rxFault : (s.okOut).rxFault = s.rxFault := rfl
@[simp] theorem okOut_fidNext : (s.okOut).fidNext = s.fidNext := rfl
@[simp] theorem okOut_port : (s.okOut).port = s.port := rfl
@[simp] theorem okOut_out : (s.okOut).out = { status := some .ok } := rfl
@[simp] theorem okOut_cfg : (s.okOut).cfg = s.cfg := rfl
@[simp] theorem okOut_hasReset : (s.okOut).hasReset = s.hasReset := rfl

@[simp] theorem refuse_rxState (x : Status) : (s.refuse x).rxState = s.rxState := rfl
@[simp] theorem refuse_rxEsc (x : Status) : (s.refuse x).rxEsc = s.rxEsc := rfl
@[simp] theorem refuse_rxBuf (x : Status) : (s.refuse x).rxBuf = s.rxBuf := rfl
@[simp] theorem refuse_rxCnt (x : Status) : (s.refuse x).rxCnt = s.rxCnt := rfl
@[simp] theorem refuse_rxLen (x : Status) : (s.refuse x).rxLen = s.rxLen := rfl
@[simp] theorem refuse_rxValid (x : Status) : (s.refuse x).rxValid = s.rxValid := rfl
@[simp] theorem refuse_rxFault (x : Status) : (s.refuse x).rxFault = s.rxFault := rfl
@[simp] theorem refuse_fidNext (x : Status) : (s.refuse x).fidNext = s.fidNext := rfl
@[simp] theorem refuse_port (x : Status) : (s.refuse x).port = s.port := rfl
@[simp] theorem refuse_out (x : Status) : (s.refuse x).out = { status := some x } := rfl
@[simp] theorem refuse_cfg (x : Status) : (s.refuse x).cfg = s.cfg := rfl
@[simp] theorem refuse_hasReset (x : Status) : (s.refuse x).hasReset = s.hasReset := rfl

@[simp] theorem overflow_rxState : (s.overflow).rxState = s.rxState := rfl
@[simp] theorem overflow_rxEsc : (s.overflow).rxEsc = s.rxEsc := rfl
@[simp] theorem overflow_rxBuf : (s.overflow).rxBuf = s.rxBuf := rfl
@[simp] theorem overflow_rxCnt : (s.overflow).rxCnt = s.rxCnt := rfl
@[simp] theorem overflow_rxLen : (s.overflow).rxLen = s.rxLen := rfl
@[simp] theorem overflow_rxValid : (s.overflow).rxValid = s.rxValid := rfl
@[simp] theorem overflow_rxFault : (s.overflow).rxFault = true := rfl
@[simp] theorem overflow_fidNext : (s.overflow).fidNext = s.fidNext := rfl
@[simp] theorem overflow_port : (s.overflow).port = s.port := rfl
@[simp] theorem overflow_out : (s.overflow).out = { status := some .rxOverflow } := rfl
@[simp] theorem overflow_cfg : (s.overflow).cfg = s.cfg := rfl
@[simp] theorem overflow_hasReset : (s.overflow).hasReset = s.hasReset := rfl

@[simp] theorem unstuffed_rxState (o : Option (Byte × Bool)) (esc : Bool) : (s.unstuffed o esc).rxState = s.rxState := rfl
@[simp] theorem unstuffed_rxEsc (o : Option (Byte × Bool)) (esc : Bool) : (s.unstuffed o esc).rxEsc = esc := rfl
@[simp] theorem unstuffed_rxBuf (o : Option (Byte × Bool)) (esc : Bool) : (s.unstuffed o esc).rxBuf = s.rxBuf := rfl
@[simp] theorem unstuffed_rxCnt (o : Option (Byte × Bool)) (esc : Bool) : (s.unstuffed o esc).rxCnt = s.rxCnt := rfl
@[simp] theorem unstuffed_rxLen (o : Option (Byte × Bool)) (esc : Bool) : (s.unstuffed o esc).rxLen = s.rxLen := rfl
@[simp] theorem unstuffed_rxValid (o : Option (Byte × Bool)) (esc : Bool) : (s.unstuffed o esc).rxValid = s.rxValid := rfl
@[simp] theorem unstuffed_rxFault (o : Option (Byte × Bool)) (esc : Bool) : (s.unstuffed o esc).rxFault = s.rxFault := rfl
@[simp] theorem unstuffed_fidNext (o : Option (Byte × Bool)) (esc : Bool) : (s.unstuffed o esc).fidNext = s.fidNext := rfl
@[simp] theorem unstuffed_port (o : Option (Byte × Bool)) (esc : Bool) : (s.unstuffed o esc).port = s.port := rfl
@[simp] theorem unstuffed_out (o : Option (Byte × Bool)) (esc : Bool) : (s.unstuffed o esc).out = { s.out with uOut := some o } := rfl
@[simp] theorem unstuffed_cfg (o : Option (Byte × Bool)) (esc : Bool) : (s.unstuffed o esc).cfg = s.cfg := rfl
@[simp] theorem unstuffed_hasReset (o : Option (Byte × Bool)) (esc : Bool) : (s.unstuffed o esc).hasReset = s.hasReset := rfl

@[simp] theorem report_rxState (d : Bool) (ev : List Event) : (s.report d ev).rxState = s.rxState := rfl
@[simp] theorem report_rxEsc (d : Bool) (ev : List Event) : (s.report d ev).rxEsc = s.rxEsc := rfl
@[simp] theorem report_rxBuf (d : Bool) (ev : List Event) : (s.report d ev).rxBuf = s.rxBuf := rfl
@[simp] theorem report_rxCnt (d : Bool) (ev : List Event) : (s.report d ev).rxCnt = s.rxCnt := rfl
@[simp] theorem report_rxLen (d : Bool) (ev : List Event) : (s.report d ev).rxLen = s.rxLen := rfl
@[simp] theorem report_rxValid (d : Bool) (ev : List Event) : (s.report d ev).rxValid = s.rxValid := rfl
@[simp] theorem report_rxFault (d : Bool) (ev : List Event) : (s.report d ev).rxFault = s.rxFault := rfl
@[simp] theorem report_fidNext (d : Bool) (ev : List Event) : (s.report d ev).fidNext = s.fidNext := rfl
@[simp] theorem report_port (d : Bool) (ev : List Event) : (s.report d ev).port = s.port := rfl
@[simp] theorem report_out (d : Bool) (ev : List Event) : (s.report d ev).out = { s.out with done := some d, events := some ev } := rfl
@[simp] theorem report_cfg (d : Bool) (ev : List Event) : (s.report d ev).cfg = s.cfg := rfl
@[simp] theorem report_hasReset (d : Bool) (ev : List Event) : (s.report d ev).hasReset = s.hasReset := rfl

@[simp] theorem stuffed_rxState (bs : List Byte) : (s.stuffed bs).rxState = s.rxState := rfl
@[simp] theorem stuffed_rxEsc (bs : List Byte) : (s.stuffed bs).rxEsc = s.rxEsc := rfl
@[simp] theorem stuffed_rxBuf (bs : List Byte) : (s.stuffed bs).rxBuf = s.rxBuf := rfl
@[simp] theorem stuffed_rxCnt (bs : List Byte) : (s.stuffed bs).rxCnt = s.rxCnt := rfl
@[simp] theorem stuffed_rxLen (bs : List Byte) : (s.stuffed bs).rxLen = s.rxLen := rfl
@[simp] theorem stuffed_rxValid (bs : List Byte) : (s.stuffed bs).rxValid = s.rxValid := rfl
@[simp] theorem stuffed_rxFault (bs : List Byte) : (s.stuffed bs).rxFault = s.rxFault := rfl
@[simp] theorem stuffed_fidNext (bs : List Byte) : (s.stuffed bs).fidNext = s.fidNext := rfl
@[simp] theorem stuffed_port (bs : List Byte) : (s.stuffed bs).port = s.port := rfl
@[simp] theorem stuffed_out (bs : List Byte) : (s.stuffed bs).out = { s.out with sOut := some bs } := rfl
@[simp] theorem stuffed_cfg (bs : List Byte) : (s.stuffed bs).cfg = s.cfg := rfl
@[simp] theorem stuffed_hasReset (bs : List Byte) : (s.stuffed bs).hasReset = s.hasReset := rfl

@[simp] theorem append_rxState (c : Byte) : (s.append c).rxState = s.rxState := rfl
@[simp] theorem append_rxEsc (c : Byte) : (s.append c).rxEsc = s.rxEsc := rfl
@[simp] theorem append_rxBuf (c : Byte) : (s.append c).rxBuf = Memory.write s.rxBuf s.rxCnt c := rfl
@[simp] theorem append_rxCnt (c : Byte) : (s.append c).rxCnt = s.rxCnt + 1 := rfl
@[simp] theorem append_rxLen (c : Byte) : (s.append c).rxLen = s.rxLen := rfl
@[simp] theorem append_rxValid (c : Byte) : (s.append c).rxValid = s.rxValid := rfl
@[simp] theorem append_rxFault (c : Byte) : (s.append c).rxFault = s.rxFault := rfl
@[simp] theorem append_fidNext (c : Byte) : (s.append c).fidNext = s.fidNext := rfl
@[simp] theorem append_port (c : Byte) : (s.append c).port = s.port := rfl
@[simp] theorem append_out (c : Byte) : (s.append c).out = s.out := rfl
@[simp] theorem append_cfg (c : Byte) : (s.append c).cfg = s.cfg := rfl
@[simp] theorem append_hasReset (c : Byte) : (s.append c).hasReset = s.hasReset := rfl

@[simp] theorem clearFrame_rxState : (s.clearFrame).rxState = .empty := rfl
@[simp] theorem clearFrame_rxEsc : (s.clearFrame).rxEsc = false := rfl
@[simp] theorem clearFrame_rxBuf : (s.clearFrame).rxBuf = [] := rfl
@[simp] theorem clearFrame_rxCnt : (s.clearFrame).rxCnt = 0 := rfl
@[simp] theorem clearFrame_rxLen : (s.clearFrame).rxLen = 0 := rfl
@[simp] theorem clearFrame_rxValid : (s.clearFrame).rxValid = false := rfl
@[simp] theorem clearFrame_rxFault : (s.clearFrame).rxFault = s.rxFault := rfl
@[simp] theorem clearFrame_fidNext : (s.clearFrame).fidNext = s.fidNext := rfl
@[simp] theorem clearFrame_port : (s.clearFrame).port = s.port := rfl
@[simp] theorem clearFrame_out : (s.clearFrame).out = s.out := rfl
@[simp] theorem clearFrame_cfg : (s.clearFrame).cfg = s.cfg := rfl
@[simp] theorem clearFrame_hasReset : (s.clearFrame).hasReset = s.hasReset := rfl

@[simp] theorem takeReset_rxState : (s.takeReset).rxState = .empty := rfl
@[simp] theorem takeReset_rxEsc : (s.takeReset).rxEsc = false := rfl
@[simp] theorem takeReset_rxBuf : (s.takeReset).rxBuf = [] := rfl
@[simp] theorem takeReset_rxCnt : (s.takeReset).rxCnt = 0 := rfl
@[simp] theorem takeReset_rxLen : (s.takeReset).rxLen = 0 := rfl
@[simp] theorem takeReset_rxValid : (s.takeReset).rxValid = false := rfl
@[simp] theorem takeReset_rxFault : (s.takeReset).rxFault = false := rfl
@[simp] theorem takeReset_fidNext : (s.takeReset).fidNext = 1 := rfl
@[simp] theorem takeReset_port : (s.takeReset).port = s.port := rfl
@[simp] theorem takeReset_out : (s.takeReset).out = {} := rfl
@[simp] theorem takeReset_cfg : (s.takeReset).cfg = s.cfg := rfl
@[simp] theorem takeReset_hasReset : (s.takeReset).hasReset = true := rfl

end Sys2Proof.Machine.State
end

