-- ==== Sys2Proof/Laws/Decode.lean ====
section
/-! SUPPORT. What the decoders answer on the keys the machine forms (30_encoding.md R64, R65, R68), one lemma per key. -/

namespace Sys2Proof

@[simp] theorem u9Key_msb (esc : Bool) (b : Byte) : (u9Key esc b).msb = esc := by simp [u9Key]

@[simp] theorem u9Key_byte (esc : Bool) (b : Byte) : (u9Key esc b).extractLsb' 0 8 = b := by simp [u9Key]

/-- The unstuffer's case for a flag and a byte. -/
theorem decodeU9_u9Key (esc : Bool) (b : Byte) :
    decodeU9 (u9Key esc b) =
      if esc then .unescXor b else if b = escByte then .unescMark else .unescPass b := by
  simp [decodeU9]

theorem a12Key_state (code : BitVec 3) (e : Bool) (c : Byte) : (a12Key code e c).extractLsb' 9 3 = code :=
  BitVec.extractLsb'_append_eq_left (a := code) (b := BitVec.cons e c)

theorem a12Key_tag (code : BitVec 3) (e : Bool) (c : Byte) : (a12Key code e c).getLsbD 8 = e :=
  (BitVec.getLsbD_append (x := code) (y := BitVec.cons e c)).trans (by simp [BitVec.getElem_cons])

theorem a12Key_byte (code : BitVec 3) (e : Bool) (c : Byte) : (a12Key code e c).extractLsb' 0 8 = c := by
  have h : (a12Key code e c).extractLsb' 0 9 = BitVec.cons e c :=
    BitVec.extractLsb'_append_eq_right (a := code) (b := BitVec.cons e c)
  have h8 : (a12Key code e c).extractLsb' 0 8 = ((a12Key code e c).extractLsb' 0 9).extractLsb' 0 8 := by
    apply BitVec.eq_of_getLsbD_eq
    intro i hi
    simp [BitVec.getLsbD_extractLsb']
  rw [h8, h]
  simp

/-- Two assembler keys are equal only when their parts are. -/
theorem a12Key_inj {p q : BitVec 3} {e f : Bool} {c d : Byte} (h : a12Key p e c = a12Key q f d) :
    p = q ∧ e = f ∧ c = d :=
  ⟨by rw [← a12Key_state p e c, h, a12Key_state], by rw [← a12Key_tag p e c, h, a12Key_tag],
    by rw [← a12Key_byte p e c, h, a12Key_byte]⟩

/-- The key of ASM.START is `{Empty, 0, 0x7E}`. -/
theorem startKey : a12Key 0 false delim = 0x07E := by decide

/-- In Empty: START on an unescaped delimiter, DROP on anything else. -/
theorem decodeA12_empty (e : Bool) (c : Byte) :
    decodeA12 (a12Key 0 e c) = .ok (if c = delim ∧ e = false then .asmStart else .asmDrop e c) := by
  have hk : (a12Key 0 e c = 0x07E) ↔ (c = delim ∧ e = false) := by
    rw [← startKey]
    constructor
    · intro h; exact ⟨(a12Key_inj h).2.2, (a12Key_inj h).2.1⟩
    · rintro ⟨rfl, rfl⟩; rfl
  unfold decodeA12
  rw [a12Key_state, a12Key_tag, a12Key_byte]
  simp only [hk]
  rfl

theorem decodeA12_length (e : Bool) (c : Byte) : decodeA12 (a12Key 1 e c) = .ok (.asmLen e c) := by
  unfold decodeA12; rw [a12Key_state, a12Key_tag, a12Key_byte]; rfl

theorem decodeA12_body (e : Bool) (c : Byte) : decodeA12 (a12Key 2 e c) = .ok (.asmBody e c) := by
  unfold decodeA12; rw [a12Key_state, a12Key_tag, a12Key_byte]; rfl

theorem decodeA12_checksum (e : Bool) (c : Byte) : decodeA12 (a12Key 3 e c) = .ok (.asmCksum e c) := by
  unfold decodeA12; rw [a12Key_state, a12Key_tag, a12Key_byte]; rfl

theorem decodeA12_complete (e : Bool) (c : Byte) : decodeA12 (a12Key 4 e c) = .ok (.asmHold e c) := by
  unfold decodeA12; rw [a12Key_state, a12Key_tag, a12Key_byte]; rfl

theorem opImm_opWord (op : BitVec 3) (imm : Byte) : opImm (opWord op imm) = imm :=
  BitVec.extractLsb'_append_eq_right (a := op) (b := imm)

theorem opCode_opWord (op : BitVec 3) (imm : Byte) : (opWord op imm).extractLsb' 8 3 = op :=
  BitVec.extractLsb'_append_eq_left (a := op) (b := imm)

end Sys2Proof
end

