-- ==== Sys2Proof/Laws/Memory.lean ====
section
/-! SUPPORT. The laws of the receive buffer as memory: read after write, the canonical form, and reading and writing a
buffer whose valued indexes are exactly those below its count. -/

namespace Sys2Proof.Machine

@[simp] theorem Memory.read_nil (i : Nat) : Memory.read [] i = none := rfl

@[simp] theorem Memory.read_cons (j i : Nat) (b : Byte) (m : List Host.Cell) :
    Memory.read ((j, b) :: m) i = if i = j then some b else Memory.read m i := rfl

/-- A read after a write to the same index gives the byte written. -/
@[simp] theorem Memory.read_write_same (m : List Host.Cell) (i : Nat) (v : Byte) :
    Memory.read (Memory.write m i v) i = some v := by
  induction m with
  | nil => simp [Memory.write]
  | cons x m ih =>
    obtain ⟨j, b⟩ := x
    simp only [Memory.write]
    split
    · simp
    · split
      · simp
      · next h => simp [h, ih]

/-- A write leaves every other index alone. -/
theorem Memory.read_write_other (m : List Host.Cell) {i a : Nat} (v : Byte) (h : a ≠ i) :
    Memory.read (Memory.write m i v) a = Memory.read m a := by
  induction m with
  | nil => simp [Memory.write, h]
  | cons x m ih =>
    obtain ⟨j, b⟩ := x
    simp only [Memory.write]
    split
    · simp [h]
    · split
      · next hij => subst hij; simp [h]
      · simp [ih]

/-- The first index of a canonical memory is below every later one, so a write keeps the form. -/
theorem Memory.wf_write (m : List Host.Cell) (i : Nat) (v : Byte) (h : Memory.wf m = true) :
    Memory.wf (Memory.write m i v) = true := by
  induction m with
  | nil => rfl
  | cons x m ih =>
    obtain ⟨j, b⟩ := x
    simp only [Memory.write]
    split
    · next hij => simp [Memory.wf, hij, h]
    · split
      · next hij => subst hij; cases m <;> simp_all [Memory.wf]
      · next hlt hne =>
        cases m with
        | nil => simp [Memory.wf, Memory.write]; omega
        | cons y m =>
          obtain ⟨k, d⟩ := y
          simp only [Memory.wf, Bool.and_eq_true, decide_eq_true_eq] at h
          have ih := ih h.2
          simp only [Memory.write] at ih ⊢
          split
          · next hik => simp_all [Memory.wf]; omega
          · split
            · next hik => subst hik; simp_all [Memory.wf]
            · next hik hne' => simp_all [Memory.wf]

/-- The buffer that holds a byte sequence from index `i` on. -/
def cellsFrom : Nat → List Byte → List Host.Cell
  | _, [] => []
  | i, b :: bs => (i, b) :: cellsFrom (i + 1) bs

theorem cellsFrom_fst (i : Nat) (bs : List Byte) : (cellsFrom i bs).map Prod.fst = List.range' i bs.length := by
  induction bs generalizing i with
  | nil => rfl
  | cons b bs ih => simp [cellsFrom, ih, List.range'_succ]

/-- A buffer whose indexes are consecutive holds a byte sequence. -/
theorem eq_cellsFrom (m : List Host.Cell) (i n : Nat) (h : m.map Prod.fst = List.range' i n) :
    ∃ bs, m = cellsFrom i bs ∧ bs.length = n := by
  induction n generalizing m i with
  | zero => exact ⟨[], by simpa [cellsFrom] using h, rfl⟩
  | succ n ih =>
    cases m with
    | nil => simp [List.range'_succ] at h
    | cons x m =>
      obtain ⟨j, b⟩ := x
      simp only [List.map_cons, List.range'_succ, List.cons.injEq] at h
      obtain ⟨bs, rfl, hl⟩ := ih m (i + 1) h.2
      exact ⟨b :: bs, by simp [cellsFrom, h.1], by simp [hl]⟩

theorem read_cellsFrom (i : Nat) (bs : List Byte) (k : Nat) :
    Memory.read (cellsFrom i bs) (i + k) = bs[k]? := by
  induction bs generalizing i k with
  | nil => simp [cellsFrom]
  | cons b bs ih =>
    cases k with
    | zero => simp [cellsFrom]
    | succ k =>
      have := ih (i + 1) k
      simp only [cellsFrom, Memory.read_cons, List.getElem?_cons_succ]
      rw [if_neg (by omega), ← this]
      congr 1
      omega

/-- Writing at the end of consecutive indexes appends. -/
theorem write_cellsFrom (i : Nat) (bs : List Byte) (c : Byte) :
    Memory.write (cellsFrom i bs) (i + bs.length) c = cellsFrom i (bs ++ [c]) := by
  induction bs generalizing i with
  | nil => simp [cellsFrom, Memory.write]
  | cons b bs ih =>
    have := ih (i + 1)
    simp only [cellsFrom, Memory.write, List.length_cons, List.cons_append]
    rw [if_neg (by omega), if_neg (by omega), ← this]
    congr 2
    omega

theorem readSeq_cellsFrom (bs : List Byte) (lo n : Nat) (h : lo + n ≤ bs.length) :
    Memory.readSeq (cellsFrom 0 bs) lo n = some ((bs.drop lo).take n) := by
  induction n generalizing lo with
  | zero => simp [Memory.readSeq]
  | succ n ih =>
    have hr : Memory.read (cellsFrom 0 bs) lo = some (bs[lo]'(by omega)) := by
      have := read_cellsFrom 0 bs lo
      rw [Nat.zero_add] at this
      rw [this, List.getElem?_eq_getElem (by omega)]
    simp only [Memory.readSeq, hr, ih (lo + 1) (by omega)]
    rw [List.drop_eq_getElem_cons (l := bs) (i := lo) (by omega), List.take_succ_cons]

/-- Consecutive indexes are in canonical form. -/
theorem wf_cellsFrom (i : Nat) (bs : List Byte) : Memory.wf (cellsFrom i bs) = true := by
  induction bs generalizing i with
  | nil => rfl
  | cons b bs ih =>
    cases bs with
    | nil => rfl
    | cons c bs =>
      have := ih (i + 1)
      simp only [cellsFrom, Memory.wf] at this ⊢
      simp [this]

/-- Reading the buffer of a byte sequence. -/
theorem read_bytes (bs : List Byte) (i : Nat) : Memory.read (cellsFrom 0 bs) i = bs[i]? := by
  have := read_cellsFrom 0 bs i
  rwa [Nat.zero_add] at this

/-- Writing at the count of a buffer that holds a byte sequence. -/
theorem write_bytes {m : List Host.Cell} {bs : List Byte} {n : Nat} (hb : m = cellsFrom 0 bs) (hl : bs.length = n)
    (c : Byte) : Memory.write m n c = cellsFrom 0 (bs ++ [c]) := by
  have := write_cellsFrom 0 bs c
  rw [Nat.zero_add, hl] at this
  rw [hb, this]

/-- A slice of a buffer that holds a byte sequence. -/
theorem slice_bytes {s : State} {bs : List Byte} (hb : s.rxBuf = cellsFrom 0 bs) {lo hi : Nat} (hlo : lo ≤ hi)
    (hhi : hi ≤ bs.length) : s.slice lo hi = some ((bs.drop lo).take (hi - lo)) := by
  unfold State.slice
  rw [hb, readSeq_cellsFrom _ _ _ (by omega)]

/-- The indexes of a buffer that holds a byte sequence. -/
theorem filled_bytes {m : List Host.Cell} {bs : List Byte} {n : Nat} (hb : m = cellsFrom 0 bs) (hl : bs.length = n) :
    m.map Prod.fst = List.range n := by
  rw [hb, cellsFrom_fst, hl, List.range_eq_range']

/-- A count below the capacity may grow by one. -/
theorem Capacity.holds_succ {c : Capacity} {n : Nat} (h : Capacity.holds c n = true)
    (hf : Capacity.isFull c n = false) : Capacity.holds c (n + 1) = true := by
  cases c with
  | inf => rfl
  | finite m =>
    simp only [Capacity.holds, Capacity.isFull, decide_eq_true_eq, beq_eq_false_iff_ne, ne_eq] at *
    omega

/-- In a state that meets the invariant the buffer holds a byte sequence of length `rx_cnt`. -/
theorem State.Inv.bytes {s : State} (h : s.Inv) : ∃ bs, s.rxBuf = cellsFrom 0 bs ∧ bs.length = s.rxCnt :=
  eq_cellsFrom _ _ _ (by rw [h.filled, List.range_eq_range'])

/-- In a state that meets the invariant the buffer is in canonical form. -/
theorem State.Inv.wf {s : State} (h : s.Inv) : Memory.wf s.rxBuf = true := by
  obtain ⟨bs, hb, -⟩ := h.bytes
  rw [hb]; exact wf_cellsFrom 0 bs

theorem reset_wf : Memory.wf State.reset.rxBuf = true := rfl

theorem append_wf (s : State) (c : Byte) (h : Memory.wf s.rxBuf = true) : Memory.wf (s.append c).rxBuf = true :=
  Memory.wf_write _ _ _ h

theorem clearFrame_wf (s : State) : Memory.wf s.clearFrame.rxBuf = true := rfl

end Sys2Proof.Machine
end

