-- ==== Sys2Proof/Laws/Ops.lean ====
section
/-! SUPPORT. One lemma per shared operation that says all it can do, for the proofs to cite instead of unfolding it. -/

namespace Sys2Proof.Machine

/-- Going on from a next state. -/
@[simp] theorem thenDo_next (s : State) (f : State → Answer) : thenDo (.next s) f = f s := rfl

/-- `thenDo` answers next only through a next state. -/
theorem thenDo_eq_next {o : Answer} {f : State → Answer} {t : State} (h : thenDo o f = .next t) :
    ∃ s, o = .next s ∧ f s = .next t := by
  cases o with
  | next s => exact ⟨s, rfl, h⟩
  | fault r => simp [thenDo] at h
  | refused r => simp [thenDo] at h

/-- The unstuffer row the state's key selects does exactly what `UNESC` says (R101). -/
theorem performU9_selected (b : Byte) (s : State) :
    performU9 (decodeU9 (u9Key s.rxEsc b)) s = .next (s.unstuffed (unesc b s.rxEsc).1 (unesc b s.rxEsc).2) := by
  rw [decodeU9_u9Key]
  by_cases he : s.rxEsc = true
  · simp [he, performU9, execUnescXor, unesc]
  · by_cases hb : b = escByte
    · simp [he, hb, performU9, execUnescMark, unesc]
    · simp only [he, hb, unesc, performU9, execUnescPass, if_false, Bool.false_eq_true]

/-- The same with the operation's outputs already begun, as RXB calls it. -/
theorem performU9_okOut (b : Byte) (s : State) :
    performU9 (decodeU9 (u9Key s.rxEsc b)) s.okOut =
      .next (s.okOut.unstuffed (unesc b s.rxEsc).1 (unesc b s.rxEsc).2) :=
  performU9_selected b s.okOut

/-- `STUFF b` gives the bytes of `STUFF1(b)` (R104). -/
theorem execStuff_eq (b : Byte) (s : State) : execStuff b s = .next (s.okOut.stuffed (stuff1 b)) := by
  unfold execStuff decodeS8 stuff1
  by_cases h1 : b = delim
  · subst h1; rfl
  by_cases h2 : b = escByte
  · subst h2; rfl
  by_cases h3 : b = xon
  · subst h3; rfl
  by_cases h4 : b = xoff
  · subst h4; rfl
  have hr : isReserved b = false := by simp_all [isReserved]
  rw [if_neg h1, if_neg h2, if_neg h3, if_neg h4, if_neg (by tauto)]
  simp [performS8, execStuffPass, hr]

/-- After any emission the unstuffer's flag is clear (R101 corner case f). -/
theorem unesc_emitted {b : Byte} {esc : Bool} {ce : Byte × Bool} (h : (unesc b esc).1 = some ce) :
    (unesc b esc).2 = false := by
  unfold unesc at h ⊢
  split
  · rfl
  · split
    · next hesc hb => simp [hesc, hb] at h
    · rfl

/-- An append is not performed on a full buffer; otherwise it is, and the row goes on (R20, R139). -/
theorem appendThen_cases (s : State) (c : Byte) (k : State → Answer) :
    (s.bufFull = true ∧ appendThen s c k = .next s.overflow) ∨
    (s.bufFull = false ∧ appendThen s c k = k (s.append c)) := by
  unfold appendThen
  cases h : s.bufFull <;> simp

/-- The append on a buffer with room. -/
theorem appendThen_room {s : State} (h : s.bufFull = false) (c : Byte) (k : State → Answer) :
    appendThen s c k = k (s.append c) := by
  simp [appendThen, h]

/-- The append on a full buffer. -/
theorem appendThen_full {s : State} (h : s.bufFull = true) (c : Byte) (k : State → Answer) :
    appendThen s c k = .next s.overflow := by
  simp [appendThen, h]

/-- What RXB does, in the order of its tests (R130). -/
theorem execRxb_cases (b : Byte) (s : State) :
    (s.rxFault = true ∧ execRxb b s = .next (s.refuse .rxOverflow)) ∨
    (s.rxFault = false ∧ s.rxState = .complete ∧ execRxb b s = .next (s.refuse .rxBusy)) ∨
    (s.rxFault = false ∧ s.rxState ≠ .complete ∧ s.overflows b = true ∧ execRxb b s = .next s.overflow) ∨
    (s.rxFault = false ∧ s.rxState ≠ .complete ∧ s.overflows b = false ∧
      execRxb b s = stepAssembler (unesc b s.rxEsc).1
        (s.okOut.unstuffed (unesc b s.rxEsc).1 (unesc b s.rxEsc).2)) := by
  unfold execRxb
  rw [performU9_okOut]
  cases hf : s.rxFault
  · by_cases hc : s.rxState = .complete
    · simp [hc]
    · cases ho : s.overflows b <;> simp [hc]
  · simp

/-- The assembler row each state selects (R68, R131 to R136). -/
theorem stepAssembler_some (c : Byte) (e : Bool) (s : State) :
    stepAssembler (some (c, e)) s =
      match s.rxState with
      | .empty => if c = delim ∧ e = false then execAsmStart s else execAsmDrop e c s
      | .awaitingLength => execAsmLen e c s
      | .awaitingBody => execAsmBody e c s
      | .awaitingChecksum => execAsmCksum e c s
      | .complete => execAsmHold e c s := by
  unfold stepAssembler
  cases h : s.rxState
  · simp only [RxState.code, decodeA12_empty]
    split <;> rfl
  · simp only [RxState.code, decodeA12_length]; rfl
  · simp only [RxState.code, decodeA12_body]; rfl
  · simp only [RxState.code, decodeA12_checksum]; rfl
  · simp only [RxState.code, decodeA12_complete]; rfl

/-- What a BUILD does with its fields (R164, R166). -/
theorem build_cases (ft : Byte) (fields : Except Status (List Byte)) (d : Descriptor) (s : State) :
    (∃ x, fields = .error x ∧ build ft fields d s = s.refuse x) ∨
    (∃ fs, fields = .ok fs ∧ payloadMax < 2 + fs.length ∧ build ft fields d s = s.refuse .buildTooLong) ∨
    (∃ fs, fields = .ok fs ∧ 2 + fs.length ≤ payloadMax ∧
      build ft fields d s =
        { s with
          fidNext := (chooseFid d s.fidNext).2
          out :=
            { status := some .ok
              txOut := some (frame ft (chooseFid d s.fidNext).1 fs d.noesc)
              txFid := some (chooseFid d s.fidNext).1 } }) := by
  cases fields with
  | error x => exact .inl ⟨x, rfl, rfl⟩
  | ok fs =>
    by_cases h : 2 + fs.length > payloadMax
    · exact .inr (.inl ⟨fs, rfl, h, by simp only [build]; rw [if_pos h]⟩)
    · exact .inr (.inr ⟨fs, rfl, by omega, by simp only [build]; rw [if_neg h]⟩)

/-- The parameter depends only on the kind and the operands it selects (R163). -/
theorem param_congr {d x : Descriptor} (h : SameParam d x) : param d = param x := by
  obtain ⟨h1, h2, h3, h4⟩ := h
  unfold param
  rw [← h1]
  cases hk : d.paramKind <;> simp_all

/-- A BUILD depends on its descriptor, beside the fields, only through `noesc` and the frame ID (R162, R166). -/
theorem build_congr (ft : Byte) (fields : Except Status (List Byte)) {d x : Descriptor} (s : State)
    (h : SameCommon d x) : build ft fields d s = build ft fields x s := by
  obtain ⟨h1, h2, h3⟩ := h
  cases fields with
  | error e => rfl
  | ok fs =>
    have hf : chooseFid d s.fidNext = chooseFid x s.fidNext := by
      unfold chooseFid
      rw [← h2]
      cases hd : d.fidGiven <;> simp_all
    simp only [build, hf, h1]

end Sys2Proof.Machine
end

