-- ==== Sys2Proof/Laws/Assembler.lean ====
section
/-! SUPPORT. What each assembler row can do (42_frame_assembler.md R131 to R136), one lemma per row, for the proofs to cite
instead of unfolding it. -/

namespace Sys2Proof.Machine

/-- ASM.START begins a frame in Empty, and is not selected elsewhere (R131). -/
theorem execAsmStart_cases (s : State) :
    (s.rxState ≠ .empty ∧ execAsmStart s = .refused .notSelected) ∨
    (s.rxState = .empty ∧
      execAsmStart s = .next
        ({ s with rxBuf := Memory.write s.rxBuf 0 delim, rxCnt := 1, rxState := .awaitingLength }.report false [])) := by
  by_cases h : s.rxState = .empty
  · exact .inr ⟨h, if_pos h⟩
  · exact .inl ⟨h, if_neg h⟩

/-- ASM.DROP reports the byte in Empty, and is not selected elsewhere or on an unescaped delimiter (R132). -/
theorem execAsmDrop_cases (e : Bool) (c : Byte) (s : State) :
    (execAsmDrop e c s = .refused .notSelected ∧ (s.rxState ≠ .empty ∨ (c = delim ∧ e = false))) ∨
    (s.rxState = .empty ∧ ¬(c = delim ∧ e = false) ∧
      execAsmDrop e c s = .next (s.report false [.malformedStart c e])) := by
  by_cases h : s.rxState = .empty ∧ ¬(c = delim ∧ e = false)
  · exact .inr ⟨h.1, h.2, if_pos h⟩
  · exact .inl ⟨if_neg h, by tauto⟩

/-- ASM.LEN: not selected, overflowing, gathering, parsing the length, or stuck for want of a byte (R133). -/
theorem execAsmLen_cases (e : Bool) (c : Byte) (s : State) :
    (s.rxState ≠ .awaitingLength ∧ execAsmLen e c s = .refused .notSelected) ∨
    (s.rxState = .awaitingLength ∧ s.bufFull = true ∧ execAsmLen e c s = .next s.overflow) ∨
    (s.rxState = .awaitingLength ∧ s.bufFull = false ∧ s.rxCnt + 1 ≠ 3 ∧
      execAsmLen e c s = .next ((s.append c).report false [])) ∨
    (∃ len, s.rxState = .awaitingLength ∧ s.bufFull = false ∧ s.rxCnt + 1 = 3 ∧
      (s.append c).declaredLength = some len ∧
      execAsmLen e c s =
        .next ({ s.append c with rxLen := len, rxState := .awaitingBody }.report false [])) ∨
    (s.rxState = .awaitingLength ∧ s.bufFull = false ∧ s.rxCnt + 1 = 3 ∧ (s.append c).declaredLength = none ∧
      execAsmLen e c s = .fault .noValue) := by
  by_cases hs : s.rxState = .awaitingLength
  · rcases appendThen_cases s c (fun t =>
      if t.rxCnt = 3 then
        match t.declaredLength with
        | some len => .next ({ t with rxLen := len, rxState := .awaitingBody }.report false [])
        | none => .fault .noValue
      else .next (t.report false [])) with ⟨hf, hk⟩ | ⟨hf, hk⟩
    · exact .inr (.inl ⟨hs, hf, (if_pos hs).trans hk⟩)
    · have hk := (if_pos hs : execAsmLen e c s = _).trans hk
      refine .inr (.inr ?_)
      by_cases h3 : s.rxCnt + 1 = 3
      · have hk := hk.trans (if_pos h3)
        refine .inr ?_
        cases hd : (s.append c).declaredLength with
        | none => exact .inr ⟨hs, hf, h3, rfl, hk.trans (by rw [hd])⟩
        | some len => exact .inl ⟨len, hs, hf, h3, rfl, hk.trans (by rw [hd])⟩
      · exact .inl ⟨hs, hf, h3, hk.trans (if_neg h3)⟩
  · exact .inl ⟨hs, if_neg hs⟩

/-- ASM.BODY: not selected, overflowing, gathering, or taking the last payload byte (R134). -/
theorem execAsmBody_cases (e : Bool) (c : Byte) (s : State) :
    (s.rxState ≠ .awaitingBody ∧ execAsmBody e c s = .refused .notSelected) ∨
    (s.rxState = .awaitingBody ∧ s.bufFull = true ∧ execAsmBody e c s = .next s.overflow) ∨
    (s.rxState = .awaitingBody ∧ s.bufFull = false ∧ s.rxCnt + 1 ≠ s.rxLen.toNat + 3 ∧
      execAsmBody e c s = .next ((s.append c).report false [])) ∨
    (s.rxState = .awaitingBody ∧ s.bufFull = false ∧ s.rxCnt + 1 = s.rxLen.toNat + 3 ∧
      execAsmBody e c s = .next ({ s.append c with rxState := .awaitingChecksum }.report false [])) := by
  by_cases hs : s.rxState = .awaitingBody
  · rcases appendThen_cases s c (fun t =>
      if t.rxCnt = t.rxLen.toNat + 3 then .next ({ t with rxState := .awaitingChecksum }.report false [])
      else .next (t.report false [])) with ⟨hf, hk⟩ | ⟨hf, hk⟩
    · exact .inr (.inl ⟨hs, hf, (if_pos hs).trans hk⟩)
    · have hk := (if_pos hs : execAsmBody e c s = _).trans hk
      by_cases h3 : s.rxCnt + 1 = s.rxLen.toNat + 3
      · exact .inr (.inr (.inr ⟨hs, hf, h3, hk.trans (if_pos h3)⟩))
      · exact .inr (.inr (.inl ⟨hs, hf, h3, hk.trans (if_neg h3)⟩))
  · exact .inl ⟨hs, if_neg hs⟩

/-- ASM.CKSUM: not selected, overflowing, completing the frame, or stuck where the source has no row or a byte has no
value (R135). -/
theorem execAsmCksum_cases (e : Bool) (c : Byte) (s : State) :
    (s.rxState ≠ .awaitingChecksum ∧ execAsmCksum e c s = .refused .notSelected) ∨
    (s.rxState = .awaitingChecksum ∧ s.bufFull = true ∧ execAsmCksum e c s = .next s.overflow) ∨
    (∃ p payload, s.rxState = .awaitingChecksum ∧ s.bufFull = false ∧ s.rxCnt + 1 = s.rxLen.toNat + 4 ∧
      (s.append c).slice 3 (s.rxCnt + 1) = some p ∧ (s.append c).slice 3 (s.rxLen.toNat + 3) = some payload ∧
      execAsmCksum e c s =
        .next ({ s.append c with rxValid := valid p, rxState := .complete }.report true
          (if valid p then [] else [.checksumMismatch (cksum payload) c]))) ∨
    (s.rxState = .awaitingChecksum ∧ s.bufFull = false ∧ ∃ r, execAsmCksum e c s = .fault r) := by
  by_cases hs : s.rxState = .awaitingChecksum
  · rcases appendThen_cases s c (fun t =>
      if t.rxCnt = t.rxLen.toNat + 4 then
        match t.slice 3 t.rxCnt, t.slice 3 (t.rxLen.toNat + 3) with
        | some p, some payload =>
          .next ({ t with rxValid := valid p, rxState := .complete }.report true
            (if valid p then [] else [.checksumMismatch (cksum payload) c]))
        | _, _ => .fault .noValue
      else .fault .internalError) with ⟨hf, hk⟩ | ⟨hf, hk⟩
    · exact .inr (.inl ⟨hs, hf, (if_pos hs).trans hk⟩)
    · have hk := (if_pos hs : execAsmCksum e c s = _).trans hk
      by_cases h4 : s.rxCnt + 1 = s.rxLen.toNat + 4
      · have hk := hk.trans (if_pos h4)
        cases hp : (s.append c).slice 3 (s.rxCnt + 1) with
        | none => exact .inr (.inr (.inr ⟨hs, hf, .noValue, hk.trans (by rw [State.append_rxCnt, hp])⟩))
        | some p =>
          cases hq : (s.append c).slice 3 (s.rxLen.toNat + 3) with
          | none => exact .inr (.inr (.inr ⟨hs, hf, .noValue, hk.trans (by rw [State.append_rxCnt, State.append_rxLen, hp, hq])⟩))
          | some payload =>
            exact .inr (.inr (.inl ⟨p, payload, hs, hf, h4, rfl, rfl,
              hk.trans (by rw [State.append_rxCnt, State.append_rxLen, hp, hq]; rfl)⟩))
      · exact .inr (.inr (.inr ⟨hs, hf, _, hk.trans (if_neg h4)⟩))
  · exact .inl ⟨hs, if_neg hs⟩

/-- ASM.HOLD refuses the byte in Complete, and is not selected elsewhere (R136). -/
theorem execAsmHold_cases (e : Bool) (c : Byte) (s : State) :
    (s.rxState ≠ .complete ∧ execAsmHold e c s = .refused .notSelected) ∨
    (s.rxState = .complete ∧ execAsmHold e c s = .next (s.refuse .rxBusy)) := by
  by_cases h : s.rxState = .complete
  · exact .inr ⟨h, if_pos h⟩
  · exact .inl ⟨h, if_neg h⟩

end Sys2Proof.Machine
end

