-- ==== Sys2Proof/Laws/PerInstr.lean ====
section
/-! SUPPORT. A statement made per instruction, one lemma per constructor of Instr. -/

/-- The encoding of a well-formed instruction is a key that the opcode table's match and mask rows give to that
instruction's own row (30_encoding.md R61, R64, R65, R68). -/
def Sys2Proof.Laws.EncodeFits.Statement (i : Sys2Proof.Instr) : Prop :=
  i.WellFormed = true → Sys2Proof.tableRow (Sys2Proof.encode i) = some i.row

namespace Sys2Proof.Laws.EncodeFits

theorem nop (imm : Byte) : Statement (.nop imm) := by revert imm; unfold Statement; decide +kernel

theorem rxb (b : Byte) : Statement (.rxb b) := by revert b; unfold Statement; decide +kernel

theorem rxclr (imm : Byte) : Statement (.rxclr imm) := by revert imm; unfold Statement; decide +kernel

theorem stuff (b : Byte) : Statement (.stuff b) := by revert b; unfold Statement; decide +kernel

theorem buildOther (ft : Byte) : Statement (.buildOther ft) := by revert ft; unfold Statement; decide +kernel

theorem fidrst (imm : Byte) : Statement (.fidrst imm) := by revert imm; unfold Statement; decide +kernel

theorem buildLocal (d : Descriptor) : Statement (.buildLocal d) := fun _ => rfl

theorem buildLocalq (d : Descriptor) : Statement (.buildLocalq d) := fun _ => rfl

theorem buildTx (d : Descriptor) : Statement (.buildTx d) := fun _ => rfl

theorem buildRemote (d : Descriptor) : Statement (.buildRemote d) := fun _ => rfl

theorem illegal (seven : Bool) (imm : Byte) : Statement (.illegal seven imm) := by
  revert seven imm; unfold Statement; decide +kernel

theorem unescXor (b : Byte) : Statement (.unescXor b) := by revert b; unfold Statement; decide +kernel

theorem unescPass (b : Byte) : Statement (.unescPass b) := by revert b; unfold Statement; decide +kernel

theorem stuffPass (b : Byte) : Statement (.stuffPass b) := by revert b; unfold Statement; decide +kernel

theorem unescMark : Statement .unescMark := fun _ => rfl

theorem stuffDelim : Statement .stuffDelim := fun _ => rfl

theorem stuffEsc : Statement .stuffEsc := fun _ => rfl

theorem stuffXon : Statement .stuffXon := fun _ => rfl

theorem stuffXoff : Statement .stuffXoff := fun _ => rfl

theorem asmStart : Statement .asmStart := fun _ => rfl

theorem asmDrop (e : Bool) (c : Byte) : Statement (.asmDrop e c) := by
  revert e c; unfold Statement; decide +kernel

theorem asmLen (e : Bool) (c : Byte) : Statement (.asmLen e c) := by
  revert e c; unfold Statement; decide +kernel

theorem asmBody (e : Bool) (c : Byte) : Statement (.asmBody e c) := by
  revert e c; unfold Statement; decide +kernel

theorem asmCksum (e : Bool) (c : Byte) : Statement (.asmCksum e c) := by
  revert e c; unfold Statement; decide +kernel

theorem asmHold (e : Bool) (c : Byte) : Statement (.asmHold e c) := by
  revert e c; unfold Statement; decide +kernel

end Sys2Proof.Laws.EncodeFits
end

