-- ==== Sys2Proof/Laws/Receive.lean ====
section
/-! SUPPORT. What the assembler and RXB can answer (42_frame_assembler.md R130 to R137, R139), said once: every next state
the assembler can give, and from it every next state RXB can give. -/

namespace Sys2Proof.Machine

/-- Every next state `t` an assembler row can give on `(c, e)` in `v` (R131 to R136, R139). -/
inductive AsmNext (c : Byte) (e : Bool) (v t : State) : Prop where
  /-- A frame begins. -/
  | start (hs : v.rxState = .empty)
      (ht : t =
        { v with rxBuf := Memory.write v.rxBuf 0 delim, rxCnt := 1, rxState := .awaitingLength }.report false [])
  /-- The byte is dropped. -/
  | drop (hs : v.rxState = .empty) (ht : t = v.report false [.malformedStart c e])
  /-- The append is not performed. -/
  | full (hf : v.bufFull = true) (he : v.rxState ≠ .empty) (hc : v.rxState ≠ .complete) (ht : t = v.overflow)
  /-- The byte is gathered and the state stays. -/
  | gather (hs : v.rxState = .awaitingLength ∨ v.rxState = .awaitingBody) (hf : v.bufFull = false)
      (ht : t = (v.append c).report false [])
  /-- The length is parsed. -/
  | parse (len : BitVec 16) (hs : v.rxState = .awaitingLength) (hf : v.bufFull = false) (h3 : v.rxCnt + 1 = 3)
      (hl : (v.append c).declaredLength = some len)
      (ht : t = { v.append c with rxLen := len, rxState := .awaitingBody }.report false [])
  /-- The payload is full. -/
  | last (hs : v.rxState = .awaitingBody) (hf : v.bufFull = false) (h3 : v.rxCnt + 1 = v.rxLen.toNat + 3)
      (ht : t = { v.append c with rxState := .awaitingChecksum }.report false [])
  /-- The frame is complete. -/
  | complete (p payload : List Byte) (hs : v.rxState = .awaitingChecksum) (hf : v.bufFull = false)
      (hp : (v.append c).slice 3 (v.rxCnt + 1) = some p)
      (hq : (v.append c).slice 3 (v.rxLen.toNat + 3) = some payload)
      (ht : t =
        { v.append c with rxValid := valid p, rxState := .complete }.report true
          (if valid p then [] else [.checksumMismatch (cksum payload) c]))
  /-- The byte is refused. -/
  | hold (hs : v.rxState = .complete) (ht : t = v.refuse .rxBusy)

theorem execAsmStart_next {v t : State} (h : execAsmStart v = .next t) : AsmNext delim false v t := by
  rcases execAsmStart_cases v with ⟨-, k⟩ | ⟨hs, k⟩ <;> rw [k] at h <;> cases h
  exact .start hs rfl

theorem execAsmDrop_next {e : Bool} {c : Byte} {v t : State} (h : execAsmDrop e c v = .next t) : AsmNext c e v t := by
  rcases execAsmDrop_cases e c v with ⟨k, -⟩ | ⟨hs, -, k⟩ <;> rw [k] at h <;> cases h
  exact .drop hs rfl

theorem execAsmLen_next {e : Bool} {c : Byte} {v t : State} (h : execAsmLen e c v = .next t) : AsmNext c e v t := by
  rcases execAsmLen_cases e c v with
    ⟨-, k⟩ | ⟨hs, hf, k⟩ | ⟨hs, hf, -, k⟩ | ⟨len, hs, hf, h3, hl, k⟩ | ⟨-, -, -, -, k⟩ <;> rw [k] at h <;> cases h
  · exact .full hf (by simp [hs]) (by simp [hs]) rfl
  · exact .gather (.inl hs) hf rfl
  · exact .parse len hs hf h3 hl rfl

theorem execAsmBody_next {e : Bool} {c : Byte} {v t : State} (h : execAsmBody e c v = .next t) : AsmNext c e v t := by
  rcases execAsmBody_cases e c v with ⟨-, k⟩ | ⟨hs, hf, k⟩ | ⟨hs, hf, -, k⟩ | ⟨hs, hf, h3, k⟩ <;>
    rw [k] at h <;> cases h
  · exact .full hf (by simp [hs]) (by simp [hs]) rfl
  · exact .gather (.inr hs) hf rfl
  · exact .last hs hf h3 rfl

theorem execAsmCksum_next {e : Bool} {c : Byte} {v t : State} (h : execAsmCksum e c v = .next t) :
    AsmNext c e v t := by
  rcases execAsmCksum_cases e c v with ⟨-, k⟩ | ⟨hs, hf, k⟩ | ⟨p, payload, hs, hf, -, hp, hq, k⟩ | ⟨-, -, _, k⟩ <;>
    rw [k] at h <;> cases h
  · exact .full hf (by simp [hs]) (by simp [hs]) rfl
  · exact .complete p payload hs hf hp hq rfl

theorem execAsmHold_next {e : Bool} {c : Byte} {v t : State} (h : execAsmHold e c v = .next t) : AsmNext c e v t := by
  rcases execAsmHold_cases e c v with ⟨-, k⟩ | ⟨hs, k⟩ <;> rw [k] at h <;> cases h
  exact .hold hs rfl

/-- Whichever row the state selects. -/
theorem stepAssembler_next {c : Byte} {e : Bool} {v t : State} (h : stepAssembler (some (c, e)) v = .next t) :
    AsmNext c e v t := by
  rw [stepAssembler_some] at h
  split at h
  · split at h
    · next hh => obtain ⟨rfl, rfl⟩ := hh; exact execAsmStart_next h
    · exact execAsmDrop_next h
  · exact execAsmLen_next h
  · exact execAsmBody_next h
  · exact execAsmCksum_next h
  · exact execAsmHold_next h

/-- Every next state RXB can give: two refusals, the fault, an escape marker taken, or the assembler's answer (R130). -/
theorem execRxb_next {b : Byte} {s t : State} (h : execRxb b s = .next t) :
    (s.rxFault = true ∧ t = s.refuse .rxOverflow) ∨
    (s.rxFault = false ∧ s.rxState = .complete ∧ t = s.refuse .rxBusy) ∨
    (s.rxFault = false ∧ s.rxState ≠ .complete ∧ s.rxState ≠ .empty ∧ s.bufFull = true ∧ t = s.overflow) ∨
    (s.rxFault = false ∧ s.rxState ≠ .complete ∧ unesc b s.rxEsc = (none, true) ∧
      t = (s.okOut.unstuffed none true).report false []) ∨
    (∃ c e, s.rxFault = false ∧ s.rxState ≠ .complete ∧ (s.rxState ≠ .empty → s.bufFull = false) ∧
      unesc b s.rxEsc = (some (c, e), false) ∧ AsmNext c e (s.okOut.unstuffed (some (c, e)) false) t) := by
  rcases execRxb_cases b s with ⟨hf, k⟩ | ⟨hf, hc, k⟩ | ⟨hf, hc, ho, k⟩ | ⟨hf, hc, ho, k⟩ <;> rw [k] at h
  · cases h; exact .inl ⟨hf, rfl⟩
  · cases h; exact .inr (.inl ⟨hf, hc, rfl⟩)
  · cases h
    simp only [State.overflows, Bool.and_eq_true, bne_iff_ne] at ho
    exact .inr (.inr (.inl ⟨hf, hc, ho.1.2, ho.2, rfl⟩))
  · refine .inr (.inr (.inr ?_))
    cases hx : (unesc b s.rxEsc).1 with
    | none =>
      have hu : unesc b s.rxEsc = (none, true) := by
        unfold unesc at hx ⊢
        split at hx
        · cases hx
        · split at hx
          · next he hb => rw [if_neg he, if_pos hb]
          · cases hx
      rw [hu] at h
      cases h
      exact .inl ⟨hf, hc, hu, rfl⟩
    | some ce =>
      obtain ⟨c, e⟩ := ce
      have hu : unesc b s.rxEsc = (some (c, e), false) := Prod.ext hx (unesc_emitted hx)
      rw [hu] at h
      refine .inr ⟨c, e, hf, hc, ?_, hu, stepAssembler_next h⟩
      intro hne
      simpa [State.overflows, hx, hne] using ho

end Sys2Proof.Machine
end

