-- ==== Sys2Proof/Laws/Step.lean ====
section
/-! SUPPORT. What one step can do (44_control.md R204; 70_reset_and_hazards.md R250, R251), said once. -/

namespace Sys2Proof.Machine

/-- A step that answers next was reset, or one operation in a state that has been reset; either takes what it ran off the
port. -/
theorem step_cases {s t : State} (h : step s = .next t) :
    (∃ p rest, s.port = p :: rest ∧ p.rst = true ∧ t = State.takeReset { s with port := rest }) ∨
    (∃ w d, s.hasReset = true ∧
      ((s.port = [] ∧ w = 0 ∧ d = Descriptor.absent ∧ exec (decodeOp11 w d) s = .next t) ∨
        ∃ p rest, s.port = p :: rest ∧ p.rst = false ∧ w = p.word ∧ d = p.desc ∧
          exec (decodeOp11 w d) { s with port := rest } = .next t)) := by
  unfold step fetch at h
  cases hq : s.port with
  | nil =>
    simp only [hq] at h
    split at h
    · next hr => exact .inr ⟨_, _, hr, .inl ⟨rfl, rfl, rfl, h⟩⟩
    · cases h
  | cons p rest =>
    cases hp : p.rst
    · simp only [hq, hp, Bool.false_eq_true, if_false] at h
      split at h
      · next hr => exact .inr ⟨_, _, hr, .inr ⟨p, rest, rfl, hp, rfl, rfl, h⟩⟩
      · cases h
    · simp only [hq, hp, if_true, Host.Outcome.next.injEq] at h
      exact .inl ⟨p, rest, rfl, hp, h.symm⟩

end Sys2Proof.Machine
end

