-- ==== Sys2Proof/Tests/Slice0.lean ====
section
/-! SUPPORT. The model's own tests: the checks of WellFormed, the decoding of written-out keys, single steps with the results
of 95_test_vectors.md, and for every obligation with hypotheses a witness that meets them. -/

namespace Sys2Proof.Tests

open Sys2Proof.Machine

/-! ## WellFormed refuses what is no word of a row -/

theorem test_wf_buildOther_refuses_an_admitted_type : Instr.WellFormed (.buildOther 0x08) = false := by decide
theorem test_wf_buildOther_admits_the_rest : Instr.WellFormed (.buildOther 0x88) = true := by decide
theorem test_wf_unescPass_refuses_the_escape_byte : Instr.WellFormed (.unescPass 0x7D) = false := by decide
theorem test_wf_stuffPass_refuses_reserved_bytes :
    Instr.WellFormed (.stuffPass 0x7E) = false ∧ Instr.WellFormed (.stuffPass 0x13) = false := by decide
theorem test_wf_asmDrop_refuses_the_unescaped_delimiter : Instr.WellFormed (.asmDrop false 0x7E) = false := by decide
theorem test_wf_asmDrop_admits_the_escaped_delimiter : Instr.WellFormed (.asmDrop true 0x7E) = true := by decide

/-! ## Decoding: one key per constructor, its bits written out from 30_encoding.md R60, R61, R64, R65, R68 -/

theorem test_decode_nop : decode (.op11 0b000_11111111 .absent) = .ok (.nop 0xFF) := by decide
theorem test_decode_rxb : decode (.op11 0b001_01111110 .absent) = .ok (.rxb 0x7E) := by decide
theorem test_decode_rxclr : decode (.op11 0b010_10101011 .absent) = .ok (.rxclr 0xAB) := by decide
theorem test_decode_stuff : decode (.op11 0b011_01111101 .absent) = .ok (.stuff 0x7D) := by decide
theorem test_decode_buildLocal (d : Descriptor) : decode (.op11 0b100_00001000 d) = .ok (.buildLocal d) := rfl
theorem test_decode_buildLocalq (d : Descriptor) : decode (.op11 0b100_00001001 d) = .ok (.buildLocalq d) := rfl
theorem test_decode_buildTx (d : Descriptor) : decode (.op11 0b100_00010000 d) = .ok (.buildTx d) := rfl
theorem test_decode_buildRemote (d : Descriptor) : decode (.op11 0b100_00010111 d) = .ok (.buildRemote d) := rfl
theorem test_decode_buildOther : decode (.op11 0b100_00010001 .absent) = .ok (.buildOther 0x11) := by decide
theorem test_decode_fidrst : decode (.op11 0b101_00000001 .absent) = .ok (.fidrst 0x01) := by decide
theorem test_decode_illegal_six : decode (.op11 0b110_11111111 .absent) = .ok (.illegal false 0xFF) := by decide
theorem test_decode_illegal_seven : decode (.op11 0b111_00000000 .absent) = .ok (.illegal true 0x00) := by decide
theorem test_decode_unescXor : decode (.u9 0b1_01111101) = .ok (.unescXor 0x7D) := by decide
theorem test_decode_unescMark : decode (.u9 0b0_01111101) = .ok .unescMark := by decide
theorem test_decode_unescPass : decode (.u9 0b0_01111110) = .ok (.unescPass 0x7E) := by decide
theorem test_decode_stuffDelim : decode (.s8 0b01111110) = .ok .stuffDelim := by decide
theorem test_decode_stuffEsc : decode (.s8 0b01111101) = .ok .stuffEsc := by decide
theorem test_decode_stuffXon : decode (.s8 0b00010001) = .ok .stuffXon := by decide
theorem test_decode_stuffXoff : decode (.s8 0b00010011) = .ok .stuffXoff := by decide
theorem test_decode_stuffPass : decode (.s8 0b01011110) = .ok (.stuffPass 0x5E) := by decide
theorem test_decode_asmStart : decode (.a12 0b000_0_01111110) = .ok .asmStart := by decide
theorem test_decode_asmDrop : decode (.a12 0b000_1_01111110) = .ok (.asmDrop true 0x7E) := by decide
theorem test_decode_asmLen : decode (.a12 0b001_0_00000010) = .ok (.asmLen false 0x02) := by decide
theorem test_decode_asmBody : decode (.a12 0b010_1_00010001) = .ok (.asmBody true 0x11) := by decide
theorem test_decode_asmCksum : decode (.a12 0b011_0_11110110) = .ok (.asmCksum false 0xF6) := by decide
theorem test_decode_asmHold : decode (.a12 0b100_0_01111110) = .ok (.asmHold false 0x7E) := by decide
theorem test_decode_no_row : (decode (.a12 0b101_0_00000000)).toOption = none := by decide

/-! ## Single steps, with the results of 95_test_vectors.md -/

/-- What a step's next state shows, or none where the step stops. -/
def shown {α : Type} (o : Answer) (f : State → α) : Option α :=
  match o with
  | .next s => some (f s)
  | .fault _ => none
  | .refused _ => none

/-- Inside the frame of vector S1: `n` of its bytes `7E 00 02 08 01 F6` are buffered. -/
def s1 (r : RxState) (n : Nat) : State :=
  { State.reset with
    rxState := r
    rxBuf := [(0, 0x7E), (1, 0x00), (2, 0x02), (3, 0x08), (4, 0x01), (5, 0xF6)].take n
    rxCnt := n
    rxLen := if n < 3 then 0 else 2
    rxValid := decide (n = 6) }

/-- Vector A8 before `06`: capacity 8, declared length 0, eight bytes buffered. -/
def a8 : State :=
  { State.reset with
    rxState := .awaitingBody
    rxBuf := [(0, 0x7E), (1, 0x00), (2, 0x00), (3, 0x01), (4, 0x02), (5, 0x03), (6, 0x04), (7, 0x05)]
    rxCnt := 8
    cfg := ⟨.finite 8⟩ }

/-- A descriptor with a name and a given frame ID. -/
def named (name : List Byte) (fid : Byte) : Descriptor := { name := name, fidGiven := true, fid := fid }

/-- The descriptor of vector B16. -/
def b16 : Descriptor :=
  { destGiven := true, netGiven := true, net := 0xFFFE, radiusGiven := true, optGiven := true, fidGiven := true, fid := 1
    data := [0x48, 0x69, 0x21] }

/-- S1, steps 1, 3, 5 and 6: the states a frame goes through. -/
theorem test_rxb_start : shown (exec (.rxb 0x7E) .reset) (fun t => (t.rxState, t.rxCnt)) = some (.awaitingLength, 1) := by
  decide
theorem test_rxb_completes_s1 :
    shown (exec (.rxb 0xF6) (s1 .awaitingChecksum 5)) (fun t => (t.oRaw, t.oValid, t.oFid, t.out.done)) =
      some (some [0x7E, 0x00, 0x02, 0x08, 0x01, 0xF6], true, some 0x01, some true) := by decide
theorem test_asmLen_parses_big_endian :
    shown (exec (.asmLen false 0x02) (s1 .awaitingLength 2)) (fun t => (t.rxState, t.rxLen)) =
      some (.awaitingBody, 2) := by decide
theorem test_asmBody_last_byte :
    shown (exec (.asmBody false 0x01) (s1 .awaitingBody 4)) (fun t => (t.rxState, t.rxCnt)) =
      some (.awaitingChecksum, 5) := by decide
/-- S4: the corrupted checksum. -/
theorem test_asmCksum_mismatch :
    shown (exec (.asmCksum false 0xF7) (s1 .awaitingChecksum 5)) (fun t => (t.rxState, t.rxValid, t.out.events)) =
      some (.complete, false, some [.checksumMismatch 0xF6 0xF7]) := by decide
theorem test_asmCksum_match :
    shown (exec (.asmCksum false 0xF6) (s1 .awaitingChecksum 5)) (fun t => (t.rxValid, t.oCkExpected, t.out.events)) =
      some (true, some 0xF6, some []) := by decide
/-- A10: in Complete the byte is refused. -/
theorem test_asmHold : exec (.asmHold false 0x7E) (s1 .complete 6) = .next ((s1 .complete 6).refuse .rxBusy) := rfl
/-- A5: an escaped delimiter is no start. -/
theorem test_asmDrop_escaped_delimiter :
    shown (exec (.asmDrop true 0x7E) .reset) (fun t => (t.rxState, t.out.events)) =
      some (.empty, some [.malformedStart 0x7E true]) := by decide
theorem test_asmStart : shown (exec .asmStart .reset) (fun t => t.rxBuf) = some [(0, 0x7E)] := by decide
/-- A8: the byte after capacity faults and changes nothing but `rx_fault`; A11: a marker at capacity does not. -/
theorem test_rxb_overflow : exec (.rxb 0x06) a8 = .next a8.overflow := rfl
theorem test_rxb_marker_at_capacity :
    shown (exec (.rxb 0x7D) a8) (fun t => (t.rxEsc, t.rxFault, t.out.status)) = some (true, false, some .ok) := by decide
/-- Section 2.5: RXCLR ignores its immediate and does not clear the fault. -/
theorem test_rxclr : shown (exec (.rxclr 0xAB) { s1 .complete 6 with rxFault := true })
    (fun t => (t.rxState, t.rxCnt, t.rxLen, t.rxValid, t.rxFault)) = some (.empty, 0, 0, false, true) := by decide
theorem test_nop_ignores_imm : exec (.nop 0xFF) (s1 .awaitingBody 4) = .next (s1 .awaitingBody 4).okOut := rfl
theorem test_illegal : shown (exec (.illegal true 0xFF) .reset) (fun t => t.out.status) = some (some .illegalOp) := by decide
theorem test_fidrst : shown (exec (.fidrst 0) { State.reset with fidNext := 0x2A }) (fun t => t.fidNext) = some 1 := by
  decide
/-- Section 2.1: the unstuffer's table. -/
theorem test_unescXor_second_marker_is_data :
    shown (exec (.unescXor 0x7D) { State.reset with rxEsc := true }) (fun t => (t.rxEsc, t.out.uOut)) =
      some (false, some (some (0x5D, true))) := by decide
theorem test_unescMark : shown (exec .unescMark .reset) (fun t => (t.rxEsc, t.out.uOut)) = some (true, some none) := by
  decide
theorem test_unescPass_delimiter :
    shown (exec (.unescPass 0x7E) .reset) (fun t => (t.rxEsc, t.out.uOut)) =
      some (false, some (some (0x7E, false))) := by decide
/-- Section 2.1: the stuffer's table. -/
theorem test_stuff_xon : shown (exec (.stuff 0x11) .reset) (fun t => t.out.sOut) = some (some [0x7D, 0x31]) := by decide
theorem test_stuff_image_is_not_reserved : shown (exec (.stuff 0x5E) .reset) (fun t => t.out.sOut) = some (some [0x5E]) := by
  decide
theorem test_stuffDelim : shown (exec .stuffDelim .reset) (fun t => t.out.sOut) = some (some [0x7D, 0x5E]) := by decide
theorem test_stuffEsc : shown (exec .stuffEsc .reset) (fun t => t.out.sOut) = some (some [0x7D, 0x5D]) := by decide
theorem test_stuffXon : shown (exec .stuffXon .reset) (fun t => t.out.sOut) = some (some [0x7D, 0x31]) := by decide
theorem test_stuffXoff : shown (exec .stuffXoff .reset) (fun t => t.out.sOut) = some (some [0x7D, 0x33]) := by decide
theorem test_stuffPass : shown (exec (.stuffPass 0x20) .reset) (fun t => t.out.sOut) = some (some [0x20]) := by decide
theorem test_escape_is_not_idempotent : escape [0x7D, 0x5E] = [0x7D, 0x5D, 0x5E] := by decide
theorem test_unescape_leaves_an_escape_pending : unescape [0x41, 0x7D] false = ([(0x41, false)], true) := by decide
/-- Section 2.2. -/
theorem test_cksum_wraps : cksum [0x80, 0x80] = 0xFF ∧ cksum [0xFF] = 0x00 ∧ cksum [0x08, 0xE7, 0x4E, 0x44] = 0x7E := by
  decide
theorem test_valid_is_not_zero_sum : valid [0x08, 0x01, 0xF7] = false ∧ valid [0x08, 0x01, 0xF6] = true := by decide
/-- B3: the frame ID 0x11 is escaped, the delimiter is not. -/
theorem test_buildLocal_escapes :
    shown (exec (.buildLocal (named [0x4E, 0x44] 0x11)) .reset) (fun t => (t.out.txOut, t.fidNext)) =
      some (some [0x7E, 0x00, 0x04, 0x08, 0x7D, 0x31, 0x4E, 0x44, 0x54], 1) := by decide
/-- Section 2.4: the generator at 255. -/
theorem test_buildLocal_draw_wraps :
    shown (exec (.buildLocal {}) { State.reset with fidNext := 255 }) (fun t => (t.out.txOut, t.out.txFid, t.fidNext)) =
      some (some [0x7E, 0x00, 0x02, 0x08, 0xFF, 0xF8], some 0xFF, 1) := by decide
/-- B10. -/
theorem test_buildLocalq :
    shown (exec (.buildLocalq { named [0x42, 0x44] 2 with paramKind := .intAuto, paramInt := 7 }) .reset)
      (fun t => t.out.txOut) = some (some [0x7E, 0x00, 0x05, 0x09, 0x02, 0x42, 0x44, 0x07, 0x67]) := by decide
/-- B16, and the same without `radius`. -/
theorem test_buildTx :
    shown (exec (.buildTx { b16 with noesc := true }) .reset) (fun t => t.out.txOut) =
      some (some [0x7E, 0x00, 0x11, 0x10, 0x01, 0x00, 0x00, 0x00, 0x00, 0x00, 0x00, 0x00, 0x00, 0xFF, 0xFE, 0x00, 0x00,
        0x48, 0x69, 0x21, 0x1F]) := by decide
theorem test_buildTx_missing_radius :
    shown (exec (.buildTx { b16 with radiusGiven := false }) .reset) (fun t => t.out.status) =
      some (some .missingField) := by decide
/-- B14: the three defaults. -/
theorem test_buildRemote_defaults :
    shown (exec (.buildRemote (named [0x4E, 0x44] 1)) .reset) (fun t => t.out.txOut) =
      some (some [0x7E, 0x00, 0x0F, 0x17, 0x01, 0x00, 0x00, 0x00, 0x00, 0x00, 0x00, 0xFF, 0xFF, 0xFF, 0xFE, 0x02, 0x4E,
        0x44, 0x58]) := by decide
theorem test_buildRemote_range :
    shown (exec (.buildRemote { paramKind := .intSized, paramInt := 0x100, paramW := 1 }) .reset)
      (fun t => (t.out.status, t.fidNext)) = some (some .intRange, 1) := by decide
theorem test_buildOther : shown (exec (.buildOther 0x11) .reset) (fun t => t.out.status) =
    some (some .unsupportedVariant) := by decide
/-- Section 2.4: INT2BYTES. -/
theorem test_int2bytes_auto_widths :
    int2bytesAuto 0xFF = .ok [0xFF] ∧ int2bytesAuto 0x100 = .ok [0x01, 0x00] ∧
      int2bytesAuto 0x10000 = .ok [0x00, 0x01, 0x00, 0x00] ∧ int2bytesAuto 0x100000000 = .error .intRange := by
  refine ⟨rfl, rfl, rfl, rfl⟩
theorem test_int2bytes_explicit_widths :
    int2bytesSized 0xFFFF 8 = .ok [0x00, 0x00, 0x00, 0x00, 0x00, 0x00, 0xFF, 0xFF] ∧
      int2bytesSized 0x100 1 = .error .intRange ∧ int2bytesSized 1 0 = .error .intRange ∧
      int2bytesSized 1 9 = .error .intRange := by
  refine ⟨rfl, rfl, rfl, rfl⟩
/-- A step takes the presented word; reset overrides it. -/
theorem test_step_presented_word :
    shown (step (State.reset.withFetchWord 16 0x17E)) (fun t => (t.rxState, t.port)) = some (.awaitingLength, []) := by
  decide
theorem test_step_reset :
    shown (step { s1 .complete 6 with fidNext := 9, rxFault := true, port := [{ rst := true, word := 0x17E }] })
      (fun t => (t.rxState, t.rxCnt, t.rxFault, t.fidNext)) = some (.empty, 0, false, 1) := by decide

/-! ## Witnesses: each obligation's hypotheses are met -/

/-- The states of the shortest frames meet the invariant, one for each row of 10_state.md R23. -/
theorem inv_inRxState (r : RxState) : (State.reset.inRxState r).Inv := by
  cases r <;> exact ⟨by decide, by decide, by decide, by decide, by decide, by decide, by decide, by decide, by decide⟩

theorem inv_s1 : (s1 .awaitingLength 1).Inv ∧ (s1 .awaitingBody 4).Inv ∧ (s1 .complete 6).Inv := by
  refine ⟨?_, ?_, ?_⟩ <;>
    exact ⟨by decide, by decide, by decide, by decide, by decide, by decide, by decide, by decide, by decide⟩

/-- Capacity 8 reached with a declared length of 0 (vector A8): the invariant holds on a full buffer. -/
theorem inv_a8 : a8.Inv :=
  ⟨by decide, by decide, by decide, by decide, by decide, by decide, by decide, by decide, by decide⟩

theorem clean_reset : State.reset.Clean := ⟨rfl, rfl, rfl, inv_inRxState .empty⟩

theorem witness_EncodedInstructionDecodesToItself : Instr.WellFormed (.asmDrop true 0x7E) = true := by decide
theorem witness_DecodedKeyEncodesBack :
    decode (.s8 0xFF) = .ok (.stuffPass 0xFF) ∧ decode (.op11 0x0FF .absent) = .ok (.nop 0xFF) := by decide
theorem witness_AssemblerKeysFromA00SelectNothing :
    (∃ e, decodeA12 0xA00 = .error e) ∧ (∃ i, decodeA12 0x9FF = .ok i) := ⟨⟨_, rfl⟩, ⟨_, rfl⟩⟩
theorem witness_StepPerformsThePresentedOperation :
    let s := { State.reset with port := [{ word := 0x1FF }] }
    s.hasReset = true ∧ s.port = [{ word := 0x1FF }] ∧ ({ word := 0x1FF } : Presented).rst = false := by decide
theorem witness_ResetOverridesThePresentedOperation :
    ({ a8 with port := [{ rst := true }] } : State).port = [{ rst := true }] ∧
      ({ rst := true } : Presented).rst = true := by decide
theorem witness_ResetOverridesThePresentedOperation_fault :
    let s := { a8 with rxFault := true, port := [{ word := 0x200 }] }
    (∃ t, step s = .next t) ∧ s.rxFault = true ∧ ∀ p ∈ s.port.head?, p.rst = false :=
  ⟨⟨_, rfl⟩, rfl, by decide⟩
theorem witness_NothingPresentedActsAsNop : State.reset.hasReset = true ∧ State.reset.port = [] := by decide
theorem witness_NoStepBeforeTheFirstReset :
    let s := { State.reset with hasReset := false, port := [{ word := 0x17E }] }
    s.hasReset = false ∧ ∀ p ∈ s.port.head?, p.rst = false := by decide
theorem witness_EveryStepKeepsTheRegisterInvariant : a8.Inv ∧ ∃ t, step a8 = .next t := ⟨inv_a8, _, rfl⟩
theorem witness_EveryPresentationIsAnswered : a8.Inv ∧ a8.hasReset = true := ⟨inv_a8, rfl⟩
theorem witness_FidrstRestartsTheGenerator : Descriptor.absent.fidGiven = false := rfl
theorem witness_OtherFrameTypesAreRefused :
    let ft : Byte := 0x0A
    ft ≠ 0x08 ∧ ft ≠ 0x09 ∧ ft ≠ 0x10 ∧ ft ≠ 0x17 := by decide
theorem witness_StufferRowsGiveTheirBytes :
    let b : Byte := 0x12
    b ≠ 0x7E ∧ b ≠ 0x7D ∧ b ≠ 0x11 ∧ b ≠ 0x13 := by decide
theorem witness_UnstufferRowsEmitAndWriteTheFlag :
    ({ State.reset with rxEsc := true } : State).rxEsc = true ∧ State.reset.rxEsc = false ∧ (0x7E : Byte) ≠ 0x7D := by
  decide
theorem witness_OperationsPerformTheRowsTheirKeysSelect :
    (s1 .awaitingBody 4).rxFault = false ∧ (s1 .awaitingBody 4).rxState ≠ .complete ∧
      ((s1 .awaitingBody 4).rxState = .empty ∨ (s1 .awaitingBody 4).bufFull = false) := by decide
theorem witness_OperationsPerformTheRowsTheirKeysSelect_emitting :
    shown (exec (decodeU9 (u9Key false 0x7D)) (s1 .awaitingBody 4)) (fun u => u.out.uOut) = some (some none) ∧
      shown (exec (decodeU9 (u9Key false 0x7E)) (s1 .awaitingBody 4)) (fun u => u.out.uOut) =
        some (some (some (0x7E, false))) := by decide
theorem witness_AsmStartBeginsAFrame : State.reset.rxState = .empty := rfl
theorem witness_AsmDropReportsTheDroppedByte :
    State.reset.rxState = .empty ∧ ¬((0x7E : Byte) = 0x7E ∧ true = false) ∧ ¬((0x7D : Byte) = 0x7E ∧ false = false) := by
  decide
theorem witness_AsmLenGathersAndParsesTheLength :
    let s := s1 .awaitingLength 1
    let t := s1 .awaitingLength 2
    (s.rxState = .awaitingLength ∧ s.bufFull = false ∧ s.rxCnt ≠ 2) ∧
      (t.rxState = .awaitingLength ∧ t.bufFull = false ∧ t.rxCnt = 2 ∧ Memory.read t.rxBuf 1 = some 0x00) := by decide
theorem witness_AsmBodyGathersThePayload :
    (s1 .awaitingBody 4).rxState = .awaitingBody ∧ (s1 .awaitingBody 4).bufFull = false := by decide
theorem witness_AsmCksumValidatesTheFrame :
    let s := State.reset.inRxState .awaitingChecksum
    s.Inv ∧ s.rxState = .awaitingChecksum ∧ s.bufFull = false := ⟨inv_inRxState .awaitingChecksum, rfl, by decide⟩
theorem witness_CompleteFrameRefusesBytes :
    (s1 .complete 6).rxState = .complete ∧ (s1 .complete 6).rxFault = false := by decide
theorem witness_RowsStopWhereTheyAreNotSelected :
    State.reset.rxEsc = false ∧ ({ State.reset with rxEsc := true } : State).rxEsc = true ∧ a8.rxState ≠ .empty ∧
      State.reset.rxState ≠ .awaitingLength ∧ State.reset.rxState ≠ .awaitingBody ∧
      State.reset.rxState ≠ .awaitingChecksum ∧ State.reset.rxState ≠ .complete ∧ a8.bufFull = true ∧
      a8.rxState = .awaitingBody := by decide
theorem witness_RowsStopWhereTheyAreNotSelected_byte :
    ((0x13 : Byte) = 0x7E ∨ (0x13 : Byte) = 0x7D ∨ (0x13 : Byte) = 0x11 ∨ (0x13 : Byte) = 0x13) ∧
      ((0x17 : Byte) = 0x08 ∨ (0x17 : Byte) = 0x09 ∨ (0x17 : Byte) = 0x10 ∨ (0x17 : Byte) = 0x17) := by decide
theorem witness_RowsStopWhereTheyAreNotSelected_full :
    let s := { s1 .awaitingLength 2 with cfg := ⟨.finite 2⟩ }
    let t := { s1 .awaitingChecksum 5 with cfg := ⟨.finite 5⟩ }
    (s.bufFull = true ∧ s.rxState = .awaitingLength) ∧ (t.bufFull = true ∧ t.rxState = .awaitingChecksum) := by decide
theorem witness_RxbTakesAnEscapeMarker : a8.rxFault = false ∧ a8.rxState ≠ .complete ∧ a8.rxEsc = false := by decide
theorem witness_RxbInEmptyStartsAFrameOrDrops :
    State.reset.rxFault = false ∧ State.reset.rxState = .empty ∧ Emits 0x7E State.reset.rxEsc 0x7E false ∧
      Emits 0x5E true 0x7E true ∧ ¬((0x7E : Byte) = 0x7E ∧ true = false) := by
  exact ⟨rfl, rfl, .inr ⟨rfl, by decide, rfl, rfl⟩, .inl ⟨rfl, rfl, rfl⟩, by decide⟩
theorem witness_RxbInsideAFrameAppendsTheByte (r : RxState) (h : r ≠ .empty) (h' : r ≠ .complete) :
    let s := State.reset.inRxState r
    s.Inv ∧ s.rxFault = false ∧ s.rxState ≠ .empty ∧ s.rxState ≠ .complete ∧ s.bufFull = false ∧
      Emits 0x7E s.rxEsc 0x7E false := by
  refine ⟨inv_inRxState r, ?_, ?_, ?_, ?_, .inr ⟨?_, by decide, rfl, rfl⟩⟩ <;> revert h h' <;> cases r <;> decide
theorem witness_RxbInsideAFrameAppendsTheByte_length : (s1 .awaitingLength 2).rxCnt + 1 = 3 ∧ (s1 .awaitingLength 1).rxCnt + 1 ≠ 3 := by
  decide
theorem witness_RxbOnAFullBufferFaults :
    a8.rxFault = false ∧ a8.rxState ≠ .empty ∧ a8.rxState ≠ .complete ∧ a8.cfg.rxCap = .finite a8.rxCnt ∧
      Emits 0x06 a8.rxEsc 0x06 false := by
  exact ⟨rfl, by decide, by decide, rfl, .inr ⟨rfl, by decide, rfl, rfl⟩⟩
theorem witness_RxbOnAFullBufferFaults_faulted : ({ a8 with rxFault := true } : State).rxFault = true := rfl
theorem witness_RxbOnAFullBufferFaults_unbounded :
    let s := { a8 with cfg := ⟨.inf⟩ }
    s.cfg.rxCap = .inf ∧ s.rxFault = false ∧ ∃ t, exec (.rxb 0x06) s = .next t := ⟨rfl, rfl, _, rfl⟩
theorem witness_ZeroLengthFrameNeverCompletes :
    a8.Inv ∧ a8.rxState = .awaitingBody ∧ a8.rxLen = 0 := ⟨inv_a8, rfl, rfl⟩
theorem witness_ZeroLengthFrameNeverCompletes_room :
    let s := { a8 with cfg := ⟨.finite 9⟩ }
    s.rxFault = false ∧ s.bufFull = false ∧ Emits 0x06 s.rxEsc 0x06 false := by
  exact ⟨rfl, by decide, .inr ⟨rfl, by decide, rfl, rfl⟩⟩
theorem witness_RxStateMovesForwardOneAtATime :
    (∃ t, exec (.rxb 0x7E) State.reset = .next t) ∧ Instr.row (.rxb 0x7E) ≠ .rxclr := ⟨⟨_, rfl⟩, by decide⟩
theorem witness_RefusedOperationChangesNothing :
    Instr.isOperation (.rxb 0x06) = true ∧ ∃ t, exec (.rxb 0x06) a8 = .next t := ⟨rfl, _, rfl⟩
theorem witness_AtMostOneEventAndNoneWithARefusal :
    Instr.isOperation (.rxb 0x41) = true ∧
      shown (exec (.rxb 0x41) .reset) (fun t => t.out.events) = some (some [.malformedStart 0x41 false]) ∧
      shown (exec (.rxb 0xF7) (s1 .awaitingChecksum 5)) (fun t => t.out.events) =
        some (some [.checksumMismatch 0xF6 0xF7]) := by decide
theorem witness_ReceiveAndTransmitCommute :
    isReceive (.rxb 0x7E) = true ∧ isTransmit (.buildOther 0x11) = true ∧ Instr.WellFormed (.buildOther 0x11) = true ∧
      ∃ t, exec (.rxb 0x7E) State.reset = .next t := ⟨rfl, rfl, by decide, _, rfl⟩
theorem witness_TransmitSideLeavesTheReceiveSideAlone :
    isTransmit (.buildLocal {}) = true ∧ ∃ t, exec (.buildLocal {}) a8 = .next t := ⟨rfl, _, rfl⟩
theorem witness_ReceiveSideFrame : Instr.row (.rxb 0x06) = .rxb ∧ ∃ t, exec (.rxb 0x06) a8 = .next t := ⟨rfl, _, rfl⟩

/-- A name of 65534 bytes: one too many for a payload. -/
def longName : Descriptor := { name := List.replicate 65534 0x41 }

theorem longName_length : longName.name.length = 65534 := List.length_replicate

theorem witness_BuildLocalFramesNameThenParameter :
    (param (named [0x4E] 1) = .ok [] ∧ 2 + ([0x4E] ++ [] : List Byte).length ≤ 65535) ∧
      (param longName = .ok [] ∧ 65535 < 2 + (longName.name ++ []).length) ∧
      param { paramKind := .intAuto, paramInt := 0x100000000 } = .error .intRange := by
  refine ⟨⟨rfl, by decide⟩, ⟨rfl, by simp only [List.length_append, longName_length]; decide⟩, rfl⟩
theorem witness_BuildLocalqFramesNameThenParameter :
    param (named [0x4E] 1) = .ok [] ∧ param longName = .ok [] ∧
      param { paramKind := .intSized, paramInt := 1, paramW := 0 } = .error .intRange := ⟨rfl, rfl, rfl⟩
theorem witness_BuildTxFramesAddressesThenData :
    (b16.destGiven = true ∧ b16.netGiven = true ∧ b16.radiusGiven = true ∧ b16.optGiven = true ∧
      b16.data.length ≤ 65521) ∧
      65521 < ({ b16 with data := List.replicate 65522 0 } : Descriptor).data.length ∧
      ({ b16 with optGiven := false } : Descriptor).optGiven = false := by
  refine ⟨by decide, by simp only [List.length_replicate]; decide, rfl⟩
theorem witness_BuildRemoteTakesItsDefaults :
    (param (named [0x4E] 1) = .ok [] ∧
      2 + ([0, 0, 0, 0, 0, 0, 0xFF, 0xFF] ++ [0xFF, 0xFE] ++ [0x02] ++ [0x4E] ++ [] : List Byte).length ≤ 65535) ∧
      (param longName = .ok [] ∧
        65535 < 2 + ([0, 0, 0, 0, 0, 0, 0xFF, 0xFF] ++ [0xFF, 0xFE] ++ [0x02] ++ longName.name ++ [] : List Byte).length) ∧
      param { paramKind := .intSized, paramInt := 1, paramW := 9 } = .error .intRange := by
  refine ⟨⟨rfl, by decide⟩, ⟨rfl, by simp only [List.length_append, longName_length]; decide⟩, rfl⟩
theorem witness_FrameLayoutAndEscaping : 2 + (List.replicate 65533 (0 : Byte)).length ≤ 65535 := by
  simp only [List.length_replicate]; decide
theorem witness_BuiltFrameSize : 2 + ([] : List Byte).length ≤ 65535 := by decide
/-- Vector B3, fed to a receiver whose capacity the frame fills exactly. -/
theorem witness_BuiltFrameAssemblesBack :
    let d := named [0x4E, 0x44] 0x11
    let r := { State.reset with cfg := ⟨.finite 8⟩ }
    fieldsLocal d = .ok [0x4E, 0x44] ∧
      shown (exec (.buildLocal d) .reset) (fun t => (t.out.txOut, t.out.txFid)) =
        some (some [0x7E, 0x00, 0x04, 0x08, 0x7D, 0x31, 0x4E, 0x44, 0x54], some 0x11) ∧
      r.Clean ∧ Capacity.holds r.cfg.rxCap ([0x4E, 0x44].length + 6) = true ∧ d.noesc = false :=
  ⟨rfl, by decide,
    ⟨rfl, rfl, rfl, ⟨by decide, by decide, by decide, by decide, by decide, by decide, by decide, by decide, by decide⟩⟩,
    by decide, rfl⟩
theorem witness_BuiltFrameAssemblesBack_unescaped :
    ∀ b ∈ (unescapedFrame ([0x08, 0x11] ++ [0x4E, 0x44])).drop 1, b ≠ 0x7D := by decide
theorem witness_EscapedFrameAssemblesWithAnyChecksum :
    1 ≤ [(0x7E : Byte)].length ∧ (0 : Byte).toNat * 256 + (1 : Byte).toNat = [(0x7E : Byte)].length ∧
      State.reset.Clean ∧ Capacity.holds State.reset.cfg.rxCap ([(0x7E : Byte)].length + 4) = true :=
  ⟨by decide, by decide, clean_reset, by decide⟩
theorem witness_AssembleInPartsIsAssembleAtOnce_goes_on :
    (assemble [0x7E, 0x00] .reset).completed = false ∧ (assemble [0x7E, 0x00] .reset).consumed = 2 := by decide
theorem witness_AssembleInPartsIsAssembleAtOnce_stops : (assemble [0xF6] (s1 .awaitingChecksum 5)).completed = true := by decide
theorem witness_EscapeLeavesNoStructure : escape [0x41, 0x11] = [0x41] ++ 0x7D :: [0x31] := by decide
theorem witness_ValidExactlyForTheComputedChecksum :
    (s1 .complete 6).Inv ∧ (s1 .complete 6).rxState = .complete := ⟨inv_s1.2.2, rfl⟩
theorem witness_ValidExactlyForTheComputedChecksum_mismatch :
    (State.reset.inRxState .awaitingChecksum).Inv ∧
      shown (exec (.asmCksum false 0x00) (State.reset.inRxState .awaitingChecksum)) (fun t => t.out.events) =
        some (some [.checksumMismatch 0xFF 0x00]) := ⟨inv_inRxState .awaitingChecksum, by decide⟩
theorem witness_SingleBitFlipIsAlwaysDetected :
    7 < 8 ∧ ([0x08, 0x01] ++ [cksum [0x08, 0x01]])[2]? = some 0xF6 := by decide
theorem witness_FrameIdsCycleFromOneTo255 : Descriptor.absent.fidGiven = false := rfl
theorem witness_IntegersAreBigEndianOrRefused :
    (1 ≤ 8 ∧ 8 ≤ 8 ∧ 0xFFFFFFFFFFFFFFFF < 2 ^ (8 * 8)) ∧ (2 ^ (8 * 1) ≤ 0x100) ∧ 0xFFFFFFFF < 2 ^ 32 ∧
      2 ^ 32 ≤ 0x100000000 := by decide
theorem witness_ParameterFollowsItsKind :
    ({} : Descriptor).paramKind = .absent ∧ ({ paramKind := .bytes } : Descriptor).paramKind = .bytes ∧
      ({ paramKind := .intAuto } : Descriptor).paramKind = .intAuto ∧
      ({ paramKind := .intSized } : Descriptor).paramKind = .intSized := ⟨rfl, rfl, rfl, rfl⟩
/-- A word that is none of the four: 0x418, and the one before 0x408. -/
theorem witness_IgnoredOperandsHaveNoEffect_word (w : BitVec 11) (h : w = 0x418 ∨ w = 0x407) :
    w ≠ 0x408 ∧ w ≠ 0x409 ∧ w ≠ 0x410 ∧ w ≠ 0x417 := by
  rcases h with rfl | rfl <;> decide
/-- Descriptors that differ in every field LOCAL, LOCALQ and REMOTE ignore, with nothing given and kind INT_AUTO. -/
theorem witness_IgnoredOperandsHaveNoEffect :
    let d : Descriptor := { name := [0x4E], paramKind := .intAuto, paramInt := 7 }
    let x : Descriptor :=
      { d with
        fid := 9, dest := broadcast, net := 1, opt := 1, radiusGiven := true, radius := 1, paramBytes := [1], paramW := 1
        data := [1] }
    SameCommon d x ∧ SameAddress d x ∧ d.name = x.name ∧ SameParam d x := by
  unfold SameCommon SameAddress SameParam; decide
/-- Descriptors that differ in every field TX ignores. -/
theorem witness_IgnoredOperandsHaveNoEffect_tx :
    let x := { b16 with name := [0x4E], paramKind := .intSized, paramBytes := [1], paramInt := 1, paramW := 1 }
    SameCommon b16 x ∧ SameAddress b16 x ∧ b16.radiusGiven = x.radiusGiven ∧
      (b16.radiusGiven = true → b16.radius = x.radius) ∧ b16.data = x.data := by
  unfold SameCommon SameAddress; decide
theorem witness_OutputsHaveAValueExactlyWhereDefined : (s1 .complete 6).Inv ∧ a8.Inv := ⟨inv_s1.2.2, inv_a8⟩

end Sys2Proof.Tests
end

/-! The family 10_state.md: what an instruction can do to the registers, said once over all instructions; the register
invariant of R23; the frames of the two sides; and the outputs of R30. -/

namespace Sys2Proof.Machine

/-! ## What an instruction can do, by the part of the block it belongs to -/

/-- The part of the block a row belongs to. `quiet` holds the rows that touch no receive register. -/
inductive Part where
  | quiet
  | clear
  | receive
  | unstuffer
  | assembler

/-- The part of each row of the opcode table. -/
def partOf : RowName → Part
  | .rxb => .receive
  | .rxclr => .clear
  | .unescXor | .unescMark | .unescPass => .unstuffer
  | .asmStart | .asmDrop | .asmLen | .asmBody | .asmCksum | .asmHold => .assembler
  | .nop | .stuff | .buildLocal | .buildLocalq | .buildTx | .buildRemote | .buildOther | .fidrst | .illegal
  | .stuffDelim | .stuffEsc | .stuffXon | .stuffXoff | .stuffPass => .quiet

/-- Every next state a quiet row can give: only the outputs change, or the generator restarts, or an accepted BUILD draws
from it (R18; 43_frame_builder.md R160, R166). -/
inductive QuietNext (i : Instr) (s t : State) : Prop where
  /-- Only the outputs change. -/
  | reported (o : OpOut) (ht : t = { s with out := o })
  /-- FIDRST. -/
  | restarted (hi : i.row = .fidrst) (ht : t = { s.okOut with fidNext := 1 })
  /-- An accepted BUILD that gives no ID. -/
  | drawn (d : Descriptor) (o : OpOut)
      (hi : i = .buildLocal d ∨ i = .buildLocalq d ∨ i = .buildTx d ∨ i = .buildRemote d)
      (hd : d.fidGiven = false) (ho : o.status = some .ok)
      (ht : t = { s with fidNext := fidAfter s.fidNext, out := o })

/-- Every next state an instruction can give. -/
inductive ExecNext (i : Instr) (s t : State) : Prop where
  | quiet (hi : partOf i.row = .quiet) (h : QuietNext i s t)
  | clear (hi : partOf i.row = .clear) (ht : t = s.clearFrame.okOut)
  | receive (b : Byte) (hi : partOf i.row = .receive) (h : execRxb b s = .next t)
  | unstuffer (o : Option (Byte × Bool)) (esc : Bool) (hi : partOf i.row = .unstuffer) (ht : t = s.unstuffed o esc)
  | assembler (c : Byte) (e : Bool) (hi : partOf i.row = .assembler) (h : AsmNext c e s t)

/-- A given ID leaves the generator as it is. -/
theorem chooseFid_given {d : Descriptor} (hd : d.fidGiven = true) (v : Byte) : (chooseFid d v).2 = v := by
  simp [chooseFid, hd]

/-- A draw moves the generator on. -/
theorem chooseFid_drawn {d : Descriptor} (hd : d.fidGiven = false) (v : Byte) : (chooseFid d v).2 = fidAfter v := by
  simp [chooseFid, hd]

/-- A BUILD is refused, or accepted with the given ID, or accepted with a drawn one. -/
theorem build_quietNext {i : Instr} {d : Descriptor}
    (hi : i = .buildLocal d ∨ i = .buildLocalq d ∨ i = .buildTx d ∨ i = .buildRemote d)
    (ft : Byte) (fields : Except Status (List Byte)) (s : State) : QuietNext i s (build ft fields d s) := by
  rcases build_cases ft fields d s with ⟨x, -, hb⟩ | ⟨fs, -, -, hb⟩ | ⟨fs, -, -, hb⟩
  · exact .reported _ hb
  · exact .reported _ hb
  · cases hd : d.fidGiven with
    | true => exact .reported _ (by rw [hb, chooseFid_given hd])
    | false => exact .drawn d _ hi hd rfl (by rw [hb, chooseFid_drawn hd])

/-- BUILD.other, where it is selected, only reports its refusal (R174). -/
theorem execBuildOther_next {ft : Byte} {s t : State} (h : execBuildOther ft s = .next t) :
    t = s.refuse .unsupportedVariant := by
  unfold execBuildOther at h
  split at h <;> cases h
  rfl

/-- STUFF.PASS, where it is selected, only gives its byte (R104). -/
theorem execStuffPass_next {b : Byte} {s t : State} (h : execStuffPass b s = .next t) : t = s.stuffed [b] := by
  unfold execStuffPass at h
  split at h <;> cases h
  rfl

/-- The unstuffer's rows, where they are selected, write the flag and the tap (R101). -/
theorem execUnescXor_next {b : Byte} {s t : State} (h : execUnescXor b s = .next t) :
    t = s.unstuffed (some (b ^^^ stuffMask, true)) false := by
  unfold execUnescXor at h
  split at h <;> cases h
  rfl

theorem execUnescMark_next {s t : State} (h : execUnescMark s = .next t) : t = s.unstuffed none true := by
  unfold execUnescMark at h
  split at h <;> cases h
  rfl

theorem execUnescPass_next {b : Byte} {s t : State} (h : execUnescPass b s = .next t) :
    t = s.unstuffed (some (b, false)) false := by
  unfold execUnescPass at h
  split at h
  · cases h
  · split at h <;> cases h
    rfl

/-- Whatever the instruction, its next state is one of its part's. -/
theorem exec_next {i : Instr} {s t : State} (h : exec i s = .next t) : ExecNext i s t := by
  cases i with
  | nop imm => cases h; exact .quiet rfl (.reported _ rfl)
  | rxb b => exact .receive b rfl h
  | rxclr imm => cases h; exact .clear rfl rfl
  | stuff b => cases (execStuff_eq b s).symm.trans h; exact .quiet rfl (.reported _ rfl)
  | buildLocal d => cases h; exact .quiet rfl (build_quietNext (.inl rfl) ..)
  | buildLocalq d => cases h; exact .quiet rfl (build_quietNext (.inr (.inl rfl)) ..)
  | buildTx d => cases h; exact .quiet rfl (build_quietNext (.inr (.inr (.inl rfl))) ..)
  | buildRemote d => cases h; exact .quiet rfl (build_quietNext (.inr (.inr (.inr rfl))) ..)
  | buildOther ft => exact .quiet rfl (.reported _ (execBuildOther_next h))
  | fidrst imm => cases h; exact .quiet rfl (.restarted rfl rfl)
  | illegal seven imm => cases h; exact .quiet rfl (.reported _ rfl)
  | unescXor b => exact .unstuffer _ _ rfl (execUnescXor_next h)
  | unescMark => exact .unstuffer _ _ rfl (execUnescMark_next h)
  | unescPass b => exact .unstuffer _ _ rfl (execUnescPass_next h)
  | stuffDelim => cases h; exact .quiet rfl (.reported _ rfl)
  | stuffEsc => cases h; exact .quiet rfl (.reported _ rfl)
  | stuffXon => cases h; exact .quiet rfl (.reported _ rfl)
  | stuffXoff => cases h; exact .quiet rfl (.reported _ rfl)
  | stuffPass b => exact .quiet rfl (.reported _ (execStuffPass_next h))
  | asmStart => exact .assembler _ _ rfl (execAsmStart_next h)
  | asmDrop e c => exact .assembler c e rfl (execAsmDrop_next h)
  | asmLen e c => exact .assembler c e rfl (execAsmLen_next h)
  | asmBody e c => exact .assembler c e rfl (execAsmBody_next h)
  | asmCksum e c => exact .assembler c e rfl (execAsmCksum_next h)
  | asmHold e c => exact .assembler c e rfl (execAsmHold_next h)

/-- An operation word is never a micro-operation: it is quiet, RXCLR or RXB (30_encoding.md R61). -/
theorem partOf_decodeOp11 (w : BitVec 11) (d : Descriptor) :
    partOf (decodeOp11 w d).row ≠ .unstuffer ∧ partOf (decodeOp11 w d).row ≠ .assembler := by
  unfold decodeOp11
  split
  case h_5 =>
    unfold decodeBuild
    split_ifs <;> exact ⟨nofun, nofun⟩
  all_goals exact ⟨nofun, nofun⟩

/-! ## The register invariant of R23 -/

/-- What the invariant says in every assembler state. -/
structure State.CoreInv (s : State) : Prop where
  capAllowed : Capacity.allowed s.cfg.rxCap = true
  filled : s.rxBuf.map Prod.fst = List.range s.rxCnt
  cntHeld : Capacity.holds s.cfg.rxCap s.rxCnt = true
  fidRange : 1 ≤ s.fidNext.toNat ∧ s.fidNext.toNat ≤ 255

/-- The row of the table of R23 for the state's own assembler state. -/
def State.RowInv (s : State) : Prop :=
  match s.rxState with
  | .empty => s.rxCnt = 0 ∧ s.rxLen = 0 ∧ s.rxValid = false
  | .awaitingLength =>
    1 ≤ s.rxCnt ∧ s.rxCnt ≤ 2 ∧ Memory.read s.rxBuf 0 = some delim ∧ s.rxLen = 0 ∧ s.rxValid = false
  | .awaitingBody =>
    3 ≤ s.rxCnt ∧ Memory.read s.rxBuf 0 = some delim ∧ s.declaredLength = some s.rxLen ∧ s.rxValid = false ∧
      (1 ≤ s.rxLen.toNat → s.rxCnt ≤ s.rxLen.toNat + 2)
  | .awaitingChecksum =>
    1 ≤ s.rxLen.toNat ∧ s.rxCnt = s.rxLen.toNat + 3 ∧ Memory.read s.rxBuf 0 = some delim ∧
      s.declaredLength = some s.rxLen ∧ s.rxValid = false
  | .complete =>
    1 ≤ s.rxLen.toNat ∧ s.rxCnt = s.rxLen.toNat + 4 ∧ Memory.read s.rxBuf 0 = some delim ∧
      s.declaredLength = some s.rxLen ∧ (s.slice 3 s.rxCnt).map valid = some s.rxValid ∧ s.rxEsc = false

/-- The invariant is what holds in every state with the row of the state it is in. -/
theorem State.inv_iff (s : State) : s.Inv ↔ s.CoreInv ∧ s.RowInv := by
  constructor
  · rintro ⟨h1, h2, h3, h4, hE, hL, hB, hC, hD⟩
    refine ⟨⟨h1, h2, h3, h4⟩, ?_⟩
    unfold State.RowInv
    split
    · exact hE ‹_›
    · exact hL ‹_›
    · exact hB ‹_›
    · exact hC ‹_›
    · exact hD ‹_›
  · rintro ⟨⟨h1, h2, h3, h4⟩, hr⟩
    unfold State.RowInv at hr
    refine ⟨h1, h2, h3, h4, ?_, ?_, ?_, ?_, ?_⟩ <;> intro hs <;> rw [hs] at hr <;> exact hr

/-- The invariant speaks of the receive registers, the parameter and the generator; of `rx_esc` in Complete only. -/
theorem State.Inv.congr {s t : State} (h : s.Inv) (hs : t.rxState = s.rxState) (hb : t.rxBuf = s.rxBuf)
    (hn : t.rxCnt = s.rxCnt) (hl : t.rxLen = s.rxLen) (hv : t.rxValid = s.rxValid) (hc : t.cfg = s.cfg)
    (he : s.rxState = .complete → t.rxEsc = s.rxEsc)
    (hf : 1 ≤ t.fidNext.toNat ∧ t.fidNext.toNat ≤ 255) : t.Inv := by
  obtain ⟨hcore, hrow⟩ := s.inv_iff.1 h
  refine t.inv_iff.2 ⟨⟨?_, ?_, ?_, hf⟩, ?_⟩
  · rw [hc]; exact hcore.capAllowed
  · rw [hb, hn]; exact hcore.filled
  · rw [hc, hn]; exact hcore.cntHeld
  · unfold State.RowInv State.declaredLength State.slice at *
    rw [hs, hb, hn, hl, hv]
    cases hst : s.rxState with
    | complete => rw [hst] at hrow; rw [he hst]; exact hrow
    | _ => rw [hst] at hrow; exact hrow

/-- Reporting an outcome keeps the invariant. -/
theorem State.Inv.withOut {s : State} (h : s.Inv) (o : OpOut) : ({ s with out := o } : State).Inv :=
  h.congr rfl rfl rfl rfl rfl rfl (fun _ => rfl) h.fidRange

theorem State.Inv.overflow {s : State} (h : s.Inv) : s.overflow.Inv :=
  h.congr rfl rfl rfl rfl rfl rfl (fun _ => rfl) h.fidRange

/-- Before a frame is complete the unstuffer may write its flag. -/
theorem State.Inv.unstuffed {s : State} (h : s.Inv) (hc : s.rxState ≠ .complete) (o : Option (Byte × Bool))
    (esc : Bool) : (s.unstuffed o esc).Inv :=
  h.congr rfl rfl rfl rfl rfl rfl (fun hs => absurd hs hc) h.fidRange

/-- With no frame begun and nothing buffered the invariant holds: the state of reset and of RXCLR. -/
theorem inv_of_discarded {s : State} (hcap : Capacity.allowed s.cfg.rxCap = true)
    (hf : 1 ≤ s.fidNext.toNat ∧ s.fidNext.toNat ≤ 255) (hs : s.rxState = .empty) (hb : s.rxBuf = [])
    (hn : s.rxCnt = 0) (hl : s.rxLen = 0) (hv : s.rxValid = false) : s.Inv := by
  refine s.inv_iff.2 ⟨⟨hcap, by rw [hb, hn]; rfl, ?_, hf⟩, ?_⟩
  · rw [hn]; cases s.cfg.rxCap <;> simp [Capacity.holds]
  · simp only [State.RowInv, hs]; exact ⟨hn, hl, hv⟩

/-- The generator's reset value is in its range. -/
theorem fidRange_one : 1 ≤ (1 : Byte).toNat ∧ (1 : Byte).toNat ≤ 255 := by decide

theorem takeReset_inv {s : State} (hcap : Capacity.allowed s.cfg.rxCap = true) : s.takeReset.Inv :=
  inv_of_discarded hcap fidRange_one rfl rfl rfl rfl rfl

/-- The generator never gives 0 (R18; 43_frame_builder.md R160). -/
theorem fidAfter_range (v : Byte) : 1 ≤ (fidAfter v).toNat ∧ (fidAfter v).toNat ≤ 255 := by
  unfold fidAfter
  split
  · decide
  · next h => bv_omega

/-- A quiet instruction keeps the invariant: the generator stays in its range. -/
theorem QuietNext.inv {i : Instr} {s t : State} (hx : QuietNext i s t) (h : s.Inv) : t.Inv := by
  cases hx with
  | reported o ht => subst ht; exact h.withOut o
  | restarted hi ht =>
    subst ht
    exact h.congr rfl rfl rfl rfl rfl rfl (fun _ => rfl) fidRange_one
  | drawn d o hi hd ho ht =>
    subst ht
    exact h.congr rfl rfl rfl rfl rfl rfl (fun _ => rfl) (fidAfter_range _)

/-! ### Appending -/

/-- A state with one byte appended where there was room keeps what holds in every state. -/
theorem State.Inv.core_of_append {s : State} (h : s.Inv) (hfull : s.bufFull = false) (c : Byte) {t : State}
    (hb : t.rxBuf = (s.append c).rxBuf) (hn : t.rxCnt = s.rxCnt + 1) (hc : t.cfg = s.cfg)
    (hf : t.fidNext = s.fidNext) : t.CoreInv := by
  obtain ⟨bs, hbs, hl⟩ := h.bytes
  refine ⟨by rw [hc]; exact h.capAllowed, ?_, ?_, by rw [hf]; exact h.fidRange⟩
  · rw [hn]
    exact filled_bytes (hb.trans (write_bytes hbs hl c)) (by simp [hl])
  · rw [hc, hn]; exact Capacity.holds_succ h.cntHeld hfull

/-- An append leaves the buffered bytes alone. -/
theorem read_append {s : State} {i : Nat} (hi : i < s.rxCnt) (c : Byte) :
    Memory.read (s.append c).rxBuf i = Memory.read s.rxBuf i :=
  Memory.read_write_other _ c (Nat.ne_of_lt hi)

/-- Once it is buffered the declared length stays. -/
theorem declaredLength_append {s : State} (h3 : 3 ≤ s.rxCnt) (c : Byte) :
    (s.append c).declaredLength = s.declaredLength := by
  unfold State.declaredLength
  rw [read_append (by omega), read_append (by omega)]

/-! ### The assembler's rows -/

/-- In Empty there is room: an allowed capacity is not 0 (00_scope.md R5). -/
theorem State.Inv.room_of_empty {s : State} (h : s.Inv) (hs : s.rxState = .empty) : s.bufFull = false := by
  have hcap := h.capAllowed
  obtain ⟨hn, -, -⟩ := h.inEmpty hs
  unfold State.bufFull
  cases hc : s.cfg.rxCap with
  | inf => rfl
  | finite n =>
    rw [hc] at hcap
    simp only [Capacity.allowed, decide_eq_true_eq] at hcap
    simp only [Capacity.isFull, beq_eq_false_iff_ne, ne_eq]
    omega

/-- A start buffers the delimiter at index 0, which in Empty is an append. -/
theorem execAsmStart_inv {s t : State} (h : s.Inv) (hx : execAsmStart s = .next t) : t.Inv := by
  rcases execAsmStart_cases s with ⟨-, k⟩ | ⟨hs, k⟩ <;> cases k.symm.trans hx
  obtain ⟨hn, hl, hv⟩ := h.inEmpty hs
  refine (State.inv_iff _).2
    ⟨h.core_of_append (h.room_of_empty hs) delim (by rw [State.append_rxBuf, hn]; rfl) (by rw [hn]; rfl) rfl rfl, ?_⟩
  simp only [State.RowInv]
  exact ⟨Nat.le_refl 1, Nat.le_succ 1, Memory.read_write_same _ _ _, hl, hv⟩

theorem execAsmDrop_inv {e : Bool} {c : Byte} {s t : State} (h : s.Inv) (hx : execAsmDrop e c s = .next t) :
    t.Inv := by
  rcases execAsmDrop_cases e c s with ⟨k, -⟩ | ⟨-, -, k⟩ <;> cases k.symm.trans hx
  exact h.withOut _

/-- The length's first byte is gathered; its second leads to AwaitingBody, whatever it says. -/
theorem execAsmLen_inv {e : Bool} {c : Byte} {s t : State} (h : s.Inv) (hx : execAsmLen e c s = .next t) : t.Inv := by
  rcases execAsmLen_cases e c s with
    ⟨-, k⟩ | ⟨-, -, k⟩ | ⟨hs, hf, h3, k⟩ | ⟨len, hs, hf, h3, hl, k⟩ | ⟨-, -, -, -, k⟩ <;> cases k.symm.trans hx
  · exact h.overflow
  · obtain ⟨h1, h2, h0, hl, hv⟩ := h.inAwaitingLength hs
    refine (State.inv_iff _).2 ⟨h.core_of_append hf c rfl rfl rfl rfl, ?_⟩
    simp only [State.RowInv, State.report_rxState, State.append_rxState, hs]
    exact ⟨Nat.le_add_left .., by simp only [State.report_rxCnt, State.append_rxCnt]; omega,
      (read_append h1 c).trans h0, hl, hv⟩
  · obtain ⟨h1, -, h0, -, hv⟩ := h.inAwaitingLength hs
    refine (State.inv_iff _).2 ⟨h.core_of_append hf c rfl rfl rfl rfl, ?_⟩
    simp only [State.RowInv, State.report_rxState]
    exact ⟨h3.ge, (read_append h1 c).trans h0, hl, hv, fun hlen => by
      simp only [State.report_rxCnt, State.report_rxLen, State.append_rxCnt] at hlen ⊢; omega⟩

/-- The payload is gathered until the count is `rx_len + 3`. -/
theorem execAsmBody_inv {e : Bool} {c : Byte} {s t : State} (h : s.Inv) (hx : execAsmBody e c s = .next t) :
    t.Inv := by
  rcases execAsmBody_cases e c s with ⟨-, k⟩ | ⟨-, -, k⟩ | ⟨hs, hf, hne, k⟩ | ⟨hs, hf, heq, k⟩ <;>
    cases k.symm.trans hx
  · exact h.overflow
  · obtain ⟨h3, h0, hd, hv, hle⟩ := h.inAwaitingBody hs
    refine (State.inv_iff _).2 ⟨h.core_of_append hf c rfl rfl rfl rfl, ?_⟩
    simp only [State.RowInv, State.report_rxState, State.append_rxState, hs]
    exact ⟨Nat.le_succ_of_le h3, (read_append (by omega) c).trans h0, (declaredLength_append h3 c).trans hd, hv,
      fun hlen => by
        have := hle hlen
        simp only [State.report_rxCnt, State.report_rxLen, State.append_rxCnt, State.append_rxLen]; omega⟩
  · obtain ⟨h3, h0, hd, hv, -⟩ := h.inAwaitingBody hs
    refine (State.inv_iff _).2 ⟨h.core_of_append hf c rfl rfl rfl rfl, ?_⟩
    simp only [State.RowInv, State.report_rxState]
    exact ⟨by simp only [State.report_rxLen, State.append_rxLen]; omega, heq, (read_append (by omega) c).trans h0,
      (declaredLength_append h3 c).trans hd, hv⟩

/-- The checksum byte completes the frame; the flag is clear there, since a byte has just been emitted. -/
theorem execAsmCksum_inv {e : Bool} {c : Byte} {s t : State} (h : s.Inv) (hesc : s.rxEsc = false)
    (hx : execAsmCksum e c s = .next t) : t.Inv := by
  rcases execAsmCksum_cases e c s with ⟨-, k⟩ | ⟨-, -, k⟩ | ⟨p, payload, hs, hf, heq, hp, -, k⟩ | ⟨-, -, _, k⟩ <;>
    cases k.symm.trans hx
  · exact h.overflow
  · obtain ⟨h1, hn, h0, hd, -⟩ := h.inAwaitingChecksum hs
    refine (State.inv_iff _).2 ⟨h.core_of_append hf c rfl rfl rfl rfl, ?_⟩
    simp only [State.RowInv, State.report_rxState]
    exact ⟨h1, heq, (read_append (by omega) c).trans h0, (declaredLength_append (by omega) c).trans hd,
      congrArg (Option.map valid) hp, hesc⟩

theorem execAsmHold_inv {e : Bool} {c : Byte} {s t : State} (h : s.Inv) (hx : execAsmHold e c s = .next t) :
    t.Inv := by
  rcases execAsmHold_cases e c s with ⟨-, k⟩ | ⟨-, k⟩ <;> cases k.symm.trans hx
  exact h.withOut _

/-- Whichever row the state selects keeps the invariant, after an emission. -/
theorem stepAssembler_inv {c : Byte} {e : Bool} {s t : State} (h : s.Inv) (hesc : s.rxEsc = false)
    (hx : stepAssembler (some (c, e)) s = .next t) : t.Inv := by
  rw [stepAssembler_some] at hx
  split at hx
  · split at hx
    · exact execAsmStart_inv h hx
    · exact execAsmDrop_inv h hx
  · exact execAsmLen_inv h hx
  · exact execAsmBody_inv h hx
  · exact execAsmCksum_inv h hesc hx
  · exact execAsmHold_inv h hx

/-! ### Every step -/

/-- RXB keeps the invariant: a refusal and the fault write no register of it, a marker only the flag, and an emitted byte
goes to the assembler with the flag clear. -/
theorem execRxb_inv {b : Byte} {s t : State} (h : s.Inv) (hx : execRxb b s = .next t) : t.Inv := by
  rcases execRxb_cases b s with ⟨-, k⟩ | ⟨-, -, k⟩ | ⟨-, -, -, k⟩ | ⟨-, hc, -, k⟩ <;> rw [k] at hx
  · cases hx; exact h.withOut _
  · cases hx; exact h.withOut _
  · cases hx; exact h.overflow
  · have hv := State.Inv.unstuffed (h.withOut { status := some .ok }) hc (unesc b s.rxEsc).1 (unesc b s.rxEsc).2
    cases hu : (unesc b s.rxEsc).1 with
    | none => rw [hu] at hx hv; cases hx; exact hv.withOut _
    | some ce =>
      obtain ⟨c, e⟩ := ce
      rw [hu] at hx hv
      exact stepAssembler_inv hv (unesc_emitted hu) hx

/-- Every operation of the port keeps the invariant. -/
theorem exec_inv {i : Instr} {s t : State} (h : s.Inv)
    (hi : partOf i.row ≠ .unstuffer ∧ partOf i.row ≠ .assembler) (hx : exec i s = .next t) : t.Inv := by
  cases exec_next hx with
  | quiet _ hq => exact hq.inv h
  | clear _ ht => subst ht; exact inv_of_discarded h.capAllowed h.fidRange rfl rfl rfl rfl rfl
  | receive b _ hr => exact execRxb_inv h hr
  | unstuffer o esc hu => exact absurd hu hi.1
  | assembler c e ha => exact absurd ha hi.2

/-- Taking a presentation off the port keeps the invariant. -/
theorem State.Inv.withPort {s : State} (h : s.Inv) (ps : List Presented) : ({ s with port := ps } : State).Inv :=
  h.congr rfl rfl rfl rfl rfl rfl (fun _ => rfl) h.fidRange

/-- Settles O11: reset gives the discarded state, and every operation keeps what R23 says. -/
theorem everyStepKeepsTheRegisterInvariant : Obligations.EveryStepKeepsTheRegisterInvariant := by
  intro s t h hstep
  rcases step_cases hstep with ⟨p, rest, -, -, rfl⟩ | ⟨w, d, -, ⟨-, -, -, hx⟩ | ⟨p, rest, -, -, -, -, hx⟩⟩
  · exact takeReset_inv h.capAllowed
  · exact exec_inv h (partOf_decodeOp11 w d) hx
  · exact exec_inv (h.withPort rest) (partOf_decodeOp11 w d) hx

/-- Settles O12: the reset state is what reset makes of itself. -/
theorem resetStateMeetsTheRegisterInvariant : Obligations.ResetStateMeetsTheRegisterInvariant :=
  takeReset_inv (s := State.reset) rfl

/-! ## The order of the assembler states (R21) -/

/-- `rx_state` is kept or moves to the next in the order. -/
def Advances (s t : State) : Prop :=
  t.rxState.code.toNat = s.rxState.code.toNat ∨ t.rxState.code.toNat = s.rxState.code.toNat + 1

/-- A next state with the same assembler state. -/
theorem advances_of_same {s t : State} (h : t.rxState = s.rxState) : Advances s t := .inl (by rw [h])

theorem QuietNext.advances {i : Instr} {s t : State} (h : QuietNext i s t) : Advances s t := by
  cases h with
  | reported o ht => subst ht; exact advances_of_same rfl
  | restarted hi ht => subst ht; exact advances_of_same rfl
  | drawn d o hi hd ho ht => subst ht; exact advances_of_same rfl

/-- Each row of the assembler stays or goes on by one state. -/
theorem AsmNext.advances {c : Byte} {e : Bool} {v t : State} (h : AsmNext c e v t) : Advances v t := by
  cases h with
  | start hs ht => subst ht; exact .inr (by rw [hs]; rfl)
  | drop hs ht => subst ht; exact advances_of_same rfl
  | full hf he hc ht => subst ht; exact advances_of_same rfl
  | gather hs hf ht => subst ht; exact advances_of_same rfl
  | parse len hs hf h3 hl ht => subst ht; exact .inr (by rw [hs]; rfl)
  | last hs hf h3 ht => subst ht; exact .inr (by rw [hs]; rfl)
  | complete p payload hs hf hp hq ht => subst ht; exact .inr (by rw [hs]; rfl)
  | hold hs ht => subst ht; exact advances_of_same rfl

/-- RXB moves the assembler by at most the one row it performs. -/
theorem execRxb_advances {b : Byte} {s t : State} (h : execRxb b s = .next t) : Advances s t := by
  rcases execRxb_next h with
    ⟨-, rfl⟩ | ⟨-, -, rfl⟩ | ⟨-, -, -, -, rfl⟩ | ⟨-, -, -, rfl⟩ | ⟨c, e, -, -, -, -, ha⟩
  · exact advances_of_same rfl
  · exact advances_of_same rfl
  · exact advances_of_same rfl
  · exact advances_of_same rfl
  · exact ha.advances

/-- RXCLR is the only row of its part. -/
theorem row_of_partOf_clear {r : RowName} (h : partOf r = .clear) : r = .rxclr := by
  cases r <;> simp_all [partOf]

/-- Settles O35: only RXCLR, left out here, returns to Empty. -/
theorem rxStateMovesForwardOneAtATime : Obligations.RxStateMovesForwardOneAtATime := by
  intro i s t h hrow
  cases exec_next h with
  | quiet _ hq => exact hq.advances
  | clear hi _ => exact absurd (row_of_partOf_clear hi) hrow
  | receive b _ hr => exact execRxb_advances hr
  | unstuffer o esc _ ht => subst ht; exact advances_of_same rfl
  | assembler c e _ ha => exact ha.advances

/-! ## What a quiet instruction leaves alone -/

theorem QuietNext.sameReceive {i : Instr} {s t : State} (h : QuietNext i s t) : SameReceive s t := by
  cases h with
  | reported o ht => subst ht; exact ⟨rfl, rfl, rfl, rfl, rfl, rfl, rfl⟩
  | restarted hi ht => subst ht; exact ⟨rfl, rfl, rfl, rfl, rfl, rfl, rfl⟩
  | drawn d o hi hd ho ht => subst ht; exact ⟨rfl, rfl, rfl, rfl, rfl, rfl, rfl⟩

theorem QuietNext.sameAround {i : Instr} {s t : State} (h : QuietNext i s t) : SameAround s t := by
  cases h with
  | reported o ht => subst ht; exact ⟨rfl, rfl, rfl⟩
  | restarted hi ht => subst ht; exact ⟨rfl, rfl, rfl⟩
  | drawn d o hi hd ho ht => subst ht; exact ⟨rfl, rfl, rfl⟩

/-- The generator is written by FIDRST and by an accepted BUILD without an ID only. -/
theorem QuietNext.fidNext {i : Instr} {s t : State} (h : QuietNext i s t) :
    t.fidNext = s.fidNext ∨ i.row = .fidrst ∨
      ∃ d, (i = .buildLocal d ∨ i = .buildLocalq d ∨ i = .buildTx d ∨ i = .buildRemote d) ∧ d.fidGiven = false ∧
        t.out.status = some .ok := by
  cases h with
  | reported o ht => subst ht; exact .inl rfl
  | restarted hi ht => exact .inr (.inl hi)
  | drawn d o hi hd ho ht => subst ht; exact .inr (.inr ⟨d, hi, hd, ho⟩)

/-- The transmit side is quiet. -/
theorem partOf_of_isTransmit {i : Instr} (h : isTransmit i = true) : partOf i.row = .quiet := by
  cases i <;> simp_all [isTransmit, Instr.row, partOf]

/-- An instruction of the quiet part gives one of that part's next states. -/
theorem exec_quietNext {i : Instr} {s t : State} (hi : partOf i.row = .quiet) (h : exec i s = .next t) :
    QuietNext i s t := by
  cases exec_next h with
  | quiet _ hq => exact hq
  | clear hp | receive _ hp | unstuffer _ _ hp | assembler _ _ hp => exact nomatch hi.symm.trans hp

/-- Settles O39: every instruction named is quiet. -/
theorem transmitSideLeavesTheReceiveSideAlone : Obligations.TransmitSideLeavesTheReceiveSideAlone := by
  intro i s t hi h
  have hpart : partOf i.row = .quiet := by
    rcases hi with hi | hi | hi | hi | hi | hi | hi | hi
    · exact partOf_of_isTransmit hi
    all_goals rw [hi]; rfl
  have hq := exec_quietNext hpart h
  obtain ⟨-, -, hbuf, -⟩ := hq.sameReceive
  exact ⟨hq.sameReceive, hq.sameAround, fun a => by rw [hbuf], hq.fidNext⟩

/-! ## What the receive side leaves alone -/

/-- What RXB and every row of the unstuffer and the assembler leave alone (R12 to R17). -/
structure ReceiveFrame (s t : State) : Prop where
  fidNext : t.fidNext = s.fidNext
  around : SameAround s t
  /-- Only the byte at 0 in Empty, at `rx_cnt` elsewhere, may be written. -/
  others : ∀ a, a ≠ (if s.rxState = .empty then 0 else s.rxCnt) → Memory.read t.rxBuf a = Memory.read s.rxBuf a
  /-- A byte is stored only with a change of the state or of the count. -/
  stored : t.rxState = s.rxState → t.rxCnt = s.rxCnt → t.rxBuf = s.rxBuf
  len : t.rxLen = s.rxLen ∨ (s.rxState = .awaitingLength ∧ t.rxState = .awaitingBody)
  valid : t.rxValid = s.rxValid ∨ (s.rxState = .awaitingChecksum ∧ t.rxState = .complete)
  fault : t.rxFault = s.rxFault ∨ t.out.status = some .rxOverflow

/-- Writing the flag and the outputs, and `rx_fault` with the status of an overflow. -/
theorem receiveFrame_of_flags (s : State) (esc fault : Bool) (o : OpOut)
    (hf : fault = s.rxFault ∨ o.status = some .rxOverflow) :
    ReceiveFrame s { s with rxEsc := esc, rxFault := fault, out := o } :=
  ⟨rfl, ⟨rfl, rfl, rfl⟩, fun _ _ => rfl, fun _ _ => rfl, .inl rfl, .inl rfl, hf⟩

/-- An append inside a frame, whatever it does to the length, the state and the flag `rx_valid`. -/
theorem receiveFrame_of_append {s t : State} {c : Byte} (hs : s.rxState ≠ .empty)
    (hfid : t.fidNext = s.fidNext) (har : SameAround s t) (hb : t.rxBuf = (s.append c).rxBuf)
    (hn : t.rxCnt = s.rxCnt + 1) (hf : t.rxFault = s.rxFault)
    (hl : t.rxLen = s.rxLen ∨ (s.rxState = .awaitingLength ∧ t.rxState = .awaitingBody))
    (hv : t.rxValid = s.rxValid ∨ (s.rxState = .awaitingChecksum ∧ t.rxState = .complete)) : ReceiveFrame s t := by
  refine ⟨hfid, har, fun a ha => ?_, fun _ hsame => ?_, hl, hv, .inl hf⟩
  · rw [if_neg hs] at ha
    rw [hb]
    exact Memory.read_write_other _ c ha
  · omega

/-- The frame of every assembler row. -/
theorem AsmNext.receiveFrame {c : Byte} {e : Bool} {v t : State} (h : AsmNext c e v t) : ReceiveFrame v t := by
  cases h with
  | start hs ht =>
    subst ht
    refine ⟨rfl, ⟨rfl, rfl, rfl⟩, fun a ha => ?_, fun hsame _ => ?_, .inl rfl, .inl rfl, .inl rfl⟩
    · rw [if_pos hs] at ha
      exact Memory.read_write_other _ _ ha
    · exact nomatch hsame.trans hs
  | drop hs ht => subst ht; exact receiveFrame_of_flags v _ _ _ (.inl rfl)
  | full hf he hc ht => subst ht; exact receiveFrame_of_flags v _ _ _ (.inr rfl)
  | gather hs hf ht =>
    subst ht
    have hne : v.rxState ≠ .empty := by rcases hs with hs | hs <;> rw [hs] <;> nofun
    exact receiveFrame_of_append hne rfl ⟨rfl, rfl, rfl⟩ rfl rfl rfl (.inl rfl) (.inl rfl)
  | parse len hs hf h3 hl ht =>
    subst ht
    exact receiveFrame_of_append (by rw [hs]; nofun) rfl ⟨rfl, rfl, rfl⟩ rfl rfl rfl (.inr ⟨hs, rfl⟩) (.inl rfl)
  | last hs hf h3 ht =>
    subst ht
    exact receiveFrame_of_append (by rw [hs]; nofun) rfl ⟨rfl, rfl, rfl⟩ rfl rfl rfl (.inl rfl) (.inl rfl)
  | complete p payload hs hf hp hq ht =>
    subst ht
    exact receiveFrame_of_append (by rw [hs]; nofun) rfl ⟨rfl, rfl, rfl⟩ rfl rfl rfl (.inl rfl) (.inr ⟨hs, rfl⟩)
  | hold hs ht => subst ht; exact receiveFrame_of_flags v _ _ _ (.inl rfl)

/-- No assembler row writes the unstuffer's flag (R16). -/
theorem AsmNext.rxEsc {c : Byte} {e : Bool} {v t : State} (h : AsmNext c e v t) : t.rxEsc = v.rxEsc := by
  cases h <;> next ht => subst ht; rfl

/-- The frame of RXB: its assembler row starts from a state that differs in the flag and the outputs only. -/
theorem execRxb_receiveFrame {b : Byte} {s t : State} (h : execRxb b s = .next t) : ReceiveFrame s t := by
  rcases execRxb_next h with
    ⟨-, rfl⟩ | ⟨-, -, rfl⟩ | ⟨-, -, -, -, rfl⟩ | ⟨-, -, -, rfl⟩ | ⟨c, e, -, -, -, -, ha⟩
  · exact receiveFrame_of_flags s _ _ _ (.inl rfl)
  · exact receiveFrame_of_flags s _ _ _ (.inl rfl)
  · exact receiveFrame_of_flags s _ _ _ (.inr rfl)
  · exact receiveFrame_of_flags s _ _ _ (.inl rfl)
  · obtain ⟨hfid, har, hother, hst, hl, hv, hf⟩ := ha.receiveFrame
    exact ⟨hfid, har, hother, hst, hl, hv, hf⟩

/-- The frame of every instruction of the receive side's three parts. -/
theorem exec_receiveFrame {i : Instr} {s t : State}
    (hi : partOf i.row = .receive ∨ partOf i.row = .unstuffer ∨ partOf i.row = .assembler)
    (h : exec i s = .next t) : ReceiveFrame s t := by
  cases exec_next h with
  | quiet hp _ => simp [hp] at hi
  | clear hp _ => simp [hp] at hi
  | receive b _ hr => exact execRxb_receiveFrame hr
  | unstuffer o esc _ ht => subst ht; exact receiveFrame_of_flags s _ _ _ (.inl rfl)
  | assembler c e _ ha => exact ha.receiveFrame

/-- The unstuffer's rows write the flag and the outputs only. -/
theorem exec_unstuffer_next {i : Instr} {s t : State} (hi : partOf i.row = .unstuffer) (h : exec i s = .next t) :
    ∃ o esc, t = s.unstuffed o esc := by
  cases exec_next h with
  | unstuffer o esc _ ht => exact ⟨o, esc, ht⟩
  | quiet hp | clear hp | receive _ hp | assembler _ _ hp => exact nomatch hi.symm.trans hp

/-- An instruction of the assembler gives one of its rows' next states. -/
theorem exec_assembler_next {i : Instr} {s t : State} (hi : partOf i.row = .assembler) (h : exec i s = .next t) :
    ∃ c e, AsmNext c e s t := by
  cases exec_next h with
  | assembler c e _ ha => exact ⟨c, e, ha⟩
  | quiet hp | clear hp | receive _ hp | unstuffer _ _ hp => exact nomatch hi.symm.trans hp

/-- The rows that buffer nothing: the unstuffer's, ASM.DROP and ASM.HOLD (R101, R132, R136). -/
theorem exec_buffersNothing {i : Instr} {s t : State}
    (hi : i.row = .unescXor ∨ i.row = .unescMark ∨ i.row = .unescPass ∨ i.row = .asmDrop ∨ i.row = .asmHold)
    (h : exec i s = .next t) : t.rxBuf = s.rxBuf ∧ t.rxCnt = s.rxCnt ∧ t.rxState = s.rxState := by
  by_cases hu : partOf i.row = .unstuffer
  · obtain ⟨o, esc, rfl⟩ := exec_unstuffer_next hu h
    exact ⟨rfl, rfl, rfl⟩
  · cases i with
    | asmDrop e c =>
      rcases execAsmDrop_cases e c s with ⟨k, -⟩ | ⟨-, -, k⟩ <;> cases k.symm.trans h
      exact ⟨rfl, rfl, rfl⟩
    | asmHold e c =>
      rcases execAsmHold_cases e c s with ⟨-, k⟩ | ⟨-, k⟩ <;> cases k.symm.trans h
      exact ⟨rfl, rfl, rfl⟩
    | _ => simp [Instr.row, partOf] at hi hu

/-- Settles O40: the frame of the receive side's parts, with the rows that buffer nothing and those that leave the flag. -/
theorem receiveSideFrame : Obligations.ReceiveSideFrame := by
  intro i s t hi h
  have hpart : partOf i.row = .receive ∨ partOf i.row = .unstuffer ∨ partOf i.row = .assembler := by
    rcases hi with hi | hi | hi | hi | hi | hi | hi | hi | hi | hi <;> simp [hi, partOf]
  have hframe := exec_receiveFrame hpart h
  refine ⟨hframe.fidNext, hframe.around, hframe.others, fun hrow => exec_buffersNothing hrow h, hframe.stored,
    hframe.len, hframe.valid, hframe.fault, fun hrow => ?_⟩
  have hasm : partOf i.row = .assembler := by
    rcases hrow with hrow | hrow | hrow | hrow | hrow | hrow <;> rw [hrow] <;> rfl
  obtain ⟨c, e, ha⟩ := exec_assembler_next hasm h
  exact ha.rxEsc

/-! ## The outputs of R30 -/

/-- Under the invariant exactly the indexes below `rx_cnt` have a value (R13). -/
theorem State.Inv.read_isSome {s : State} (h : s.Inv) (i : Nat) :
    (Memory.read s.rxBuf i).isSome = true ↔ i < s.rxCnt := by
  obtain ⟨bs, hb, hl⟩ := h.bytes
  simp [hb, read_bytes, hl]

/-- Under the invariant a slice below `rx_cnt` has a value. -/
theorem State.Inv.slice_isSome {s : State} (h : s.Inv) {lo hi : Nat} (hlo : lo ≤ hi) (hhi : hi ≤ s.rxCnt) :
    (s.slice lo hi).isSome = true := by
  obtain ⟨bs, hb, hl⟩ := h.bytes
  rw [slice_bytes hb hlo (hl ▸ hhi)]
  rfl

/-- `o_raw` is the buffered bytes. -/
theorem State.Inv.oRaw_bytes {s : State} (h : s.Inv) :
    ∃ raw, s.oRaw = some raw ∧ raw.length = s.rxCnt ∧ ∀ i, raw[i]? = Memory.read s.rxBuf i := by
  obtain ⟨bs, hb, hl⟩ := h.bytes
  refine ⟨bs, ?_, hl, fun i => by rw [hb, read_bytes]⟩
  unfold State.oRaw
  rw [slice_bytes hb (Nat.zero_le _) hl.ge, ← hl]
  simp

/-- Settles O59: each output is guarded so that the byte it reads lies below `rx_cnt`. -/
theorem outputsHaveAValueExactlyWhereDefined : Obligations.OutputsHaveAValueExactlyWhereDefined := by
  intro s h
  refine ⟨h.oRaw_bytes, ?_, ?_, ?_, ?_⟩
  · unfold State.oFtype
    split
    · next h4 => exact (h.read_isSome 3).trans Iff.rfl
    · next h4 => exact iff_of_false nofun h4
  · unfold State.oFid
    split
    · next h5 => exact iff_of_true ((h.read_isSome 4).2 h5.1) h5
    · next h5 => exact iff_of_false nofun h5
  · unfold State.oCkActual
    split
    · next hc =>
      obtain ⟨-, hn, -⟩ := h.inComplete hc
      exact iff_of_true ((h.read_isSome _).2 (by omega)) hc
    · next hc => exact iff_of_false nofun hc
  · unfold State.oCkExpected
    split
    · next hc =>
      obtain ⟨-, hn, -⟩ := h.inComplete hc
      exact iff_of_true (Option.isSome_map.trans (h.slice_isSome (by omega) (by omega))) hc
    · next hc => exact iff_of_false nofun hc

/-- Settles O8: the values of R35, read off the reset state. -/
theorem resetStateHoldsTheStatedValues : Obligations.ResetStateHoldsTheStatedValues :=
  ⟨⟨rfl, rfl, Memory.read_nil, rfl, rfl, rfl, rfl, rfl⟩, ⟨rfl, rfl, rfl, rfl, rfl, rfl, rfl, rfl, rfl⟩,
    ⟨rfl, rfl, rfl, rfl⟩⟩

/-! ## Where a row is not selected -/

/-- The unstuffer's rows outside their flag. -/
theorem unstuffer_notSelected (b : Byte) (s : State) :
    (s.rxEsc = false → execUnescXor b s = .refused .notSelected) ∧
    (s.rxEsc = true → execUnescMark s = .refused .notSelected ∧ execUnescPass b s = .refused .notSelected) :=
  ⟨fun h => by simp [execUnescXor, h], fun h => ⟨if_pos h, if_pos h⟩⟩

/-- UNESC.PASS is never selected by the escape byte. -/
theorem execUnescPass_escByte (s : State) : execUnescPass escByte s = .refused .notSelected := by
  simp [execUnescPass]

/-- STUFF.PASS is not selected by a reserved byte. -/
theorem execStuffPass_reserved {b : Byte} (h : isReserved b = true) (s : State) :
    execStuffPass b s = .refused .notSelected := if_pos h

/-- BUILD.other is not selected by an admitted frame type. -/
theorem execBuildOther_buildable {ft : Byte} (h : isBuildable ft = true) (s : State) :
    execBuildOther ft s = .refused .notSelected := if_pos h

/-- The appending rows on a full buffer overflow. -/
theorem execAsmLen_full {s : State} (hs : s.rxState = .awaitingLength) (hf : s.bufFull = true) (e : Bool) (c : Byte) :
    execAsmLen e c s = .next s.overflow := (if_pos hs).trans (appendThen_full hf c _)

theorem execAsmBody_full {s : State} (hs : s.rxState = .awaitingBody) (hf : s.bufFull = true) (e : Bool) (c : Byte) :
    execAsmBody e c s = .next s.overflow := (if_pos hs).trans (appendThen_full hf c _)

theorem execAsmCksum_full {s : State} (hs : s.rxState = .awaitingChecksum) (hf : s.bufFull = true) (e : Bool)
    (c : Byte) : execAsmCksum e c s = .next s.overflow := (if_pos hs).trans (appendThen_full hf c _)

/-- Settles O29: each row tests its flag, its state or its byte first, then the capacity. -/
theorem rowsStopWhereTheyAreNotSelected : Obligations.RowsStopWhereTheyAreNotSelected := by
  intro b c e s
  obtain ⟨hxor, hmarkPass⟩ := unstuffer_notSelected b s
  refine ⟨hxor, hmarkPass, fun hs => ⟨if_neg hs, if_neg fun h => hs h.1⟩, fun hs => if_neg hs, fun hs => if_neg hs,
    fun hs => if_neg hs, fun hs => if_neg hs, execUnescPass_escByte s, if_neg fun h => h.2 ⟨rfl, rfl⟩, fun hb => ?_,
    fun hb => ?_, fun hf => ⟨fun hs => execAsmLen_full hs hf e c, fun hs => execAsmBody_full hs hf e c,
      fun hs => execAsmCksum_full hs hf e c⟩⟩
  · exact execStuffPass_reserved (by rcases hb with rfl | rfl | rfl | rfl <;> rfl) s
  · exact execBuildOther_buildable (by rcases hb with rfl | rfl | rfl | rfl <;> rfl) s

end Sys2Proof.Machine

/-! The family 20_memory.md: the receive side does not look at the generator, the transmit side looks at nothing else, so
the two commute (R50). -/

namespace Sys2Proof.Machine

/-! ## The receive side and the generator -/

/-- The state with another generator value. -/
def State.withFidNext (s : State) (v : Byte) : State := { s with fidNext := v }

/-- Neither the answer of `f` nor what it writes depends on the generator, and `f` leaves the generator as it is. -/
def IgnoresGenerator (f : State → Answer) : Prop :=
  ∀ (s : State) (v : Byte), f (s.withFidNext v) = thenDo (f s) fun t => .next (t.withFidNext v)

/-- A test that does not look at the generator may choose between two such operations. -/
theorem IgnoresGenerator.ite {p : State → Prop} [DecidablePred p] {f g : State → Answer}
    (hp : ∀ s v, p (s.withFidNext v) ↔ p s) (hf : IgnoresGenerator f) (hg : IgnoresGenerator g) :
    IgnoresGenerator fun s => if p s then f s else g s := by
  intro s v
  by_cases h : p s
  · simp only [hp, h, if_true, hf s v]
  · simp only [hp, h, if_false, hg s v]

/-- Not being selected says nothing of the generator. -/
theorem ignoresGenerator_notSelected : IgnoresGenerator fun _ => .refused .notSelected := fun _ _ => rfl

/-- The capacity check and the append do not look at the generator (R46). -/
theorem IgnoresGenerator.appendThen {k : State → Answer} (hk : IgnoresGenerator k) (c : Byte) :
    IgnoresGenerator fun s => appendThen s c k :=
  .ite (p := fun s => s.bufFull = true) (fun _ _ => Iff.rfl) (fun _ _ => rfl) fun s v => hk (s.append c) v

theorem execAsmStart_ignoresGenerator : IgnoresGenerator execAsmStart :=
  .ite (fun _ _ => Iff.rfl) (fun _ _ => rfl) ignoresGenerator_notSelected

theorem execAsmDrop_ignoresGenerator (e : Bool) (c : Byte) : IgnoresGenerator (execAsmDrop e c) :=
  .ite (fun _ _ => Iff.rfl) (fun _ _ => rfl) ignoresGenerator_notSelected

/-- The length is parsed from the buffer alone. -/
theorem execAsmLen_ignoresGenerator (e : Bool) (c : Byte) : IgnoresGenerator (execAsmLen e c) := by
  refine .ite (fun _ _ => Iff.rfl) (.appendThen (.ite (fun _ _ => Iff.rfl) (fun s v => ?_) fun _ _ => rfl) c)
    ignoresGenerator_notSelected
  have hlen : (s.withFidNext v).declaredLength = s.declaredLength := rfl
  rw [hlen]
  cases s.declaredLength <;> rfl

theorem execAsmBody_ignoresGenerator (e : Bool) (c : Byte) : IgnoresGenerator (execAsmBody e c) :=
  .ite (fun _ _ => Iff.rfl)
    (.appendThen (.ite (fun _ _ => Iff.rfl) (fun _ _ => rfl) fun _ _ => rfl) c) ignoresGenerator_notSelected

/-- The payload is validated from the buffer alone. -/
theorem execAsmCksum_ignoresGenerator (e : Bool) (c : Byte) : IgnoresGenerator (execAsmCksum e c) := by
  refine .ite (fun _ _ => Iff.rfl) (.appendThen (.ite (fun _ _ => Iff.rfl) (fun s v => ?_) fun _ _ => rfl) c)
    ignoresGenerator_notSelected
  have hslice (lo hi : Nat) : (s.withFidNext v).slice lo hi = s.slice lo hi := rfl
  have hcnt : (s.withFidNext v).rxCnt = s.rxCnt := rfl
  have hlen : (s.withFidNext v).rxLen = s.rxLen := rfl
  rw [hslice, hslice, hcnt, hlen]
  cases s.slice 3 s.rxCnt <;> cases s.slice 3 (s.rxLen.toNat + 3) <;> rfl

theorem execAsmHold_ignoresGenerator (e : Bool) (c : Byte) : IgnoresGenerator (execAsmHold e c) :=
  .ite (fun _ _ => Iff.rfl) (fun _ _ => rfl) ignoresGenerator_notSelected

/-- Whichever row a key selects. -/
theorem performA12_ignoresGenerator (r : Except DecodeError Instr) : IgnoresGenerator (performA12 r) := by
  cases r with
  | error x => exact fun _ _ => rfl
  | ok i =>
    cases i with
    | asmStart => exact execAsmStart_ignoresGenerator
    | asmDrop e c => exact execAsmDrop_ignoresGenerator e c
    | asmLen e c => exact execAsmLen_ignoresGenerator e c
    | asmBody e c => exact execAsmBody_ignoresGenerator e c
    | asmCksum e c => exact execAsmCksum_ignoresGenerator e c
    | asmHold e c => exact execAsmHold_ignoresGenerator e c
    | _ => exact fun _ _ => rfl

/-- The key is formed from `rx_state` and the emitted byte, not from the generator (30_encoding.md R68). -/
theorem stepAssembler_ignoresGenerator (emitted : Option (Byte × Bool)) : IgnoresGenerator (stepAssembler emitted) := by
  cases emitted with
  | none => exact fun _ _ => rfl
  | some ce => exact fun s v => performA12_ignoresGenerator _ s v

/-- None of RXB's tests looks at the generator, nor do the rows it performs. -/
theorem execRxb_ignoresGenerator (b : Byte) : IgnoresGenerator (execRxb b) := by
  refine .ite (fun _ _ => Iff.rfl) (fun _ _ => rfl) (.ite (fun _ _ => Iff.rfl) (fun _ _ => rfl)
    (.ite (fun _ _ => Iff.rfl) (fun _ _ => rfl) fun s v => ?_))
  rw [performU9_okOut, performU9_okOut]
  exact stepAssembler_ignoresGenerator _ (s.okOut.unstuffed _ _) v

/-! ## The two sides -/

/-- The state after a transmit operation that leaves `w.1` in the generator and gives the outputs `w.2`. -/
def State.transmitted (s : State) (w : Byte × OpOut) : State := { s with fidNext := w.1, out := w.2 }

/-- RXB takes no account of the outputs of the operation before it (10_state.md R31). -/
theorem execRxb_transmitted (b : Byte) (s : State) (w : Byte × OpOut) :
    execRxb b (s.transmitted w) = execRxb b (s.withFidNext w.1) := rfl

/-- A receive operation answers alike before and after a transmit operation. -/
theorem exec_receive_transmitted {r : Instr} {s t : State} (hr : isReceive r = true) (h : exec r s = .next t)
    (w : Byte × OpOut) : exec r (s.transmitted w) = .next (t.withFidNext w.1) := by
  cases r with
  | rxb b =>
    calc execRxb b (s.transmitted w)
      _ = execRxb b (s.withFidNext w.1) := execRxb_transmitted b s w
      _ = thenDo (execRxb b s) fun t => .next (t.withFidNext w.1) := execRxb_ignoresGenerator b s w.1
      _ = .next (t.withFidNext w.1) := congrArg (thenDo · _) h
  | rxclr imm => cases h; rfl
  | _ => cases hr

/-- A receive operation leaves the generator alone. -/
theorem exec_receive_fidNext {r : Instr} {s t : State} (hr : isReceive r = true) (h : exec r s = .next t) :
    t.fidNext = s.fidNext := by
  cases r with
  | rxb b => exact (execRxb_receiveFrame h).fidNext
  | rxclr imm => cases h; rfl
  | _ => cases hr

/-- The operation always answers, writes the generator and the outputs only, and computes both from the generator. -/
def TransmitOnly (f : State → Answer) : Prop :=
  ∃ w : Byte → Byte × OpOut, ∀ s, f s = .next (s.transmitted (w s.fidNext))

/-- A BUILD is refused by its descriptor alone; otherwise it takes its ID from the generator (R164, R166). -/
theorem build_transmitOnly (ft : Byte) (fields : Except Status (List Byte)) (d : Descriptor) :
    TransmitOnly fun s => .next (build ft fields d s) := by
  cases fields with
  | error x => exact ⟨fun v => (v, { status := some x }), fun _ => rfl⟩
  | ok fs =>
    by_cases hlong : 2 + fs.length > payloadMax
    · exact ⟨fun v => (v, { status := some .buildTooLong }), fun _ => congrArg _ (if_pos hlong)⟩
    · exact ⟨fun v => ((chooseFid d v).2,
        { status := some .ok, txOut := some (frame ft (chooseFid d v).1 fs d.noesc), txFid := some (chooseFid d v).1 }),
        fun _ => congrArg _ (if_neg hlong)⟩

/-- Every operation of the transmit side: STUFF, the BUILDs and FIDRST. -/
theorem exec_transmitOnly {x : Instr} (hx : isTransmit x = true) (hwf : x.WellFormed = true) : TransmitOnly (exec x) := by
  cases x with
  | stuff b => exact ⟨fun v => (v, { status := some .ok, sOut := some (stuff1 b) }), execStuff_eq b⟩
  | buildLocal d => exact build_transmitOnly ..
  | buildLocalq d => exact build_transmitOnly ..
  | buildTx d => exact build_transmitOnly ..
  | buildRemote d => exact build_transmitOnly ..
  | buildOther ft =>
    have hother : ¬ isBuildable ft = true := by simpa [Instr.WellFormed, wfBuildOther] using hwf
    exact ⟨fun v => (v, { status := some .unsupportedVariant }), fun _ => if_neg hother⟩
  | fidrst imm => exact ⟨fun _ => (1, { status := some .ok }), fun _ => rfl⟩
  | _ => cases hx

/-- Settles O38: the transmit operation finds the same generator in either order, and the receive operation does not look
at what the transmit operation writes. -/
theorem receiveAndTransmitCommute : Obligations.ReceiveAndTransmitCommute := by
  intro r x s sr hr hx hwf h
  obtain ⟨w, hw⟩ := exec_transmitOnly hx hwf
  have hfid : sr.fidNext = s.fidNext := exec_receive_fidNext hr h
  have hafter : exec x sr = .next (sr.transmitted (w s.fidNext)) := hfid ▸ hw sr
  exact ⟨_, _, _, hafter, hw s, exec_receive_transmitted hr h _, rfl, rfl, rfl⟩

end Sys2Proof.Machine

/-! The family 30_encoding.md: the decoders on the keys written by their parts, the round trip from an instruction to its
key and back, the opcode table's rows as tests of those parts, the stuffer's rows, and what an operation ignores. -/

namespace Sys2Proof.Machine

/-! ## The keys by their parts -/

/-- Every operation word is `{op, imm}` (R60). -/
theorem exists_opWord (w : BitVec 11) : ∃ op imm, w = opWord op imm :=
  ⟨w.extractLsb' 8 3, opImm w, (BitVec.extractLsb'_append_extractLsb' (w := 3) (len := 8)).symm⟩

/-- Two operation words are equal only when their parts are. -/
theorem opWord_inj {p q : BitVec 3} {a b : Byte} : opWord p a = opWord q b ↔ p = q ∧ a = b := by
  refine ⟨fun h => ⟨?_, ?_⟩, fun ⟨hp, ha⟩ => hp ▸ ha ▸ rfl⟩
  · rw [← opCode_opWord p a, h, opCode_opWord]
  · rw [← opImm_opWord p a, h, opImm_opWord]

/-- Every unstuffer key is `{rx_esc, b}` (R64). -/
theorem exists_u9Key (k : BitVec 9) : ∃ esc b, k = u9Key esc b :=
  ⟨k.msb, k.setWidth 8, (BitVec.cons_msb_setWidth k).symm⟩

/-- Two unstuffer keys are equal only when their parts are. -/
theorem u9Key_inj {p q : Bool} {a b : Byte} : u9Key p a = u9Key q b ↔ p = q ∧ a = b := by
  refine ⟨fun h => ⟨?_, ?_⟩, fun ⟨hp, ha⟩ => hp ▸ ha ▸ rfl⟩
  · rw [← u9Key_msb p a, h, u9Key_msb]
  · rw [← u9Key_byte p a, h, u9Key_byte]

/-- The flag of an unstuffer key as a field of one bit. -/
theorem u9Key_flag (esc : Bool) (b : Byte) : (u9Key esc b).extractLsb' 8 1 = BitVec.ofBool esc :=
  BitVec.extractLsb'_append_eq_left (a := BitVec.ofBool esc) (b := b)

/-- The eight values of a 3-bit code: `op` of R60 or `rx_state` of R68. -/
theorem code_cases (p : BitVec 3) : p = 0 ∨ p = 1 ∨ p = 2 ∨ p = 3 ∨ p = 4 ∨ p = 5 ∨ p = 6 ∨ p = 7 := by
  decide +revert

/-! ## What the decoders answer -/

/-- The operation for a code and an immediate (R61). -/
theorem decodeOp11_opWord (op : BitVec 3) (imm : Byte) (d : Descriptor) :
    decodeOp11 (opWord op imm) d =
      if op = 0 then .nop imm else if op = 1 then .rxb imm else if op = 2 then .rxclr imm
      else if op = 3 then .stuff imm else if op = 4 then decodeBuild imm d else if op = 5 then .fidrst imm
      else if op = 6 then .illegal false imm else .illegal true imm := by
  unfold decodeOp11
  rw [opCode_opWord, opImm_opWord]
  rcases code_cases op with rfl | rfl | rfl | rfl | rfl | rfl | rfl | rfl <;> rfl

theorem isBuildable_eq_false {ft : Byte} :
    isBuildable ft = false ↔ ft ≠ 0x08 ∧ ft ≠ 0x09 ∧ ft ≠ 0x10 ∧ ft ≠ 0x17 := by
  simp [isBuildable, and_assoc]

theorem isReserved_eq_false {b : Byte} :
    isReserved b = false ↔ b ≠ delim ∧ b ≠ escByte ∧ b ≠ xon ∧ b ≠ xoff := by
  simp [isReserved, and_assoc]

/-- A frame type is one of the four admitted or BUILD.other's (R61). -/
theorem frameType_cases (ft : Byte) :
    ft = 0x08 ∨ ft = 0x09 ∨ ft = 0x10 ∨ ft = 0x17 ∨ isBuildable ft = false := by
  rw [isBuildable_eq_false]
  tauto

/-- A frame type other than the four is BUILD.other, whatever the descriptor (R61). -/
theorem decodeBuild_other {ft : Byte} (h : isBuildable ft = false) (d : Descriptor) :
    decodeBuild ft d = .buildOther ft := by
  obtain ⟨h8, h9, h10, h17⟩ := isBuildable_eq_false.1 h
  rw [decodeBuild, if_neg h8, if_neg h9, if_neg h10, if_neg h17]

/-- A byte that is not reserved is STUFF.PASS (R65). -/
theorem decodeS8_pass {b : Byte} (h : isReserved b = false) : decodeS8 b = .stuffPass b := by
  obtain ⟨hdelim, hesc, hxon, hxoff⟩ := isReserved_eq_false.1 h
  rw [decodeS8, if_neg hdelim, if_neg hesc, if_neg hxon, if_neg hxoff]

/-- An assembler key is rejected exactly for the state codes 5, 6 and 7 (R68). -/
theorem decodeA12_error_iff (k : BitVec 12) :
    (∃ e, decodeA12 k = .error e) ↔ 5 ≤ (k.extractLsb' 9 3).toNat := by
  unfold decodeA12
  split
  case h_6 => exact iff_of_true ⟨_, rfl⟩ (by simp only [imp_false] at *; omega)
  all_goals
    next hcode => exact iff_of_false nofun (by omega)

/-! ## From an instruction to its key and back -/

/-- Settles O1, row by row: the decoder's answer on the key the row's encoding forms. Well-formedness is needed where an
earlier row would take the key. -/
theorem encodedInstructionDecodesToItself : Obligations.EncodedInstructionDecodesToItself := by
  intro i hwf
  cases i with
  | nop imm => exact congrArg Except.ok (decodeOp11_opWord 0 imm _)
  | rxb b => exact congrArg Except.ok (decodeOp11_opWord 1 b _)
  | rxclr imm => exact congrArg Except.ok (decodeOp11_opWord 2 imm _)
  | stuff b => exact congrArg Except.ok (decodeOp11_opWord 3 b _)
  | buildLocal d => rfl
  | buildLocalq d => rfl
  | buildTx d => rfl
  | buildRemote d => rfl
  | buildOther ft =>
    have hft : isBuildable ft = false := by simpa [Instr.WellFormed, wfBuildOther] using hwf
    exact congrArg Except.ok ((decodeOp11_opWord 4 ft _).trans (decodeBuild_other hft _))
  | fidrst imm => exact congrArg Except.ok (decodeOp11_opWord 5 imm _)
  | illegal seven imm =>
    cases seven with
    | false => exact congrArg Except.ok (decodeOp11_opWord 6 imm _)
    | true => exact congrArg Except.ok (decodeOp11_opWord 7 imm _)
  | unescXor b => exact congrArg Except.ok (decodeU9_u9Key true b)
  | unescMark => rfl
  | unescPass b =>
    have hb : b ≠ escByte := by simpa [Instr.WellFormed, wfUnescPass] using hwf
    exact congrArg Except.ok ((decodeU9_u9Key false b).trans (if_neg hb))
  | stuffDelim => rfl
  | stuffEsc => rfl
  | stuffXon => rfl
  | stuffXoff => rfl
  | stuffPass b =>
    have hb : isReserved b = false := by simpa [Instr.WellFormed, wfStuffPass] using hwf
    exact congrArg Except.ok (decodeS8_pass hb)
  | asmStart => rfl
  | asmDrop e c =>
    have hdrop : ¬(c = delim ∧ e = false) := by
      rintro ⟨rfl, rfl⟩
      cases hwf
    exact (decodeA12_empty e c).trans (congrArg Except.ok (if_neg hdrop))
  | asmLen e c => exact decodeA12_length e c
  | asmBody e c => exact decodeA12_body e c
  | asmCksum e c => exact decodeA12_checksum e c
  | asmHold e c => exact decodeA12_complete e c

/-- Settles O4: every key is written out, so the decoder computes. -/
theorem writtenKeysDecodeToTheirInstruction : Obligations.WrittenKeysDecodeToTheirInstruction :=
  fun _ => ⟨rfl, rfl, rfl, rfl, rfl, rfl, rfl, rfl, rfl, rfl, rfl, rfl, rfl, rfl⟩

/-- Settles O5: the key's state code is its number divided by 512, and `0xA00 = 5 * 512`. -/
theorem assemblerKeysFromA00SelectNothing : Obligations.AssemblerKeysFromA00SelectNothing := by
  intro k
  rw [decodeA12_error_iff, BitVec.extractLsb'_toNat]
  have hk : k.toNat < 4096 := k.isLt
  omega

/-! ## The opcode table's rows as tests of a key's parts

A row's mask selects either some bits of the key's upper field or the whole key. -/

/-- A row that tests the bits `mask` of the key's upper field, above `low` bits it does not look at. -/
def fieldRow (low : Nat) {n : Nat} (name : RowName) (p mask : BitVec n) : TableRow (n + low) :=
  ⟨name, p ++ 0#low, mask ++ 0#low⟩

/-- A row that takes one key only. -/
def keyRow {n : Nat} (name : RowName) (p : BitVec n) : TableRow n := ⟨name, p, BitVec.allOnes n⟩

@[simp] theorem fieldRow_name (low : Nat) {n : Nat} (name : RowName) (p mask : BitVec n) :
    (fieldRow low name p mask).name = name := rfl

@[simp] theorem keyRow_name {n : Nat} (name : RowName) (p : BitVec n) : (keyRow name p).name = name := rfl

@[simp] theorem fieldRow_takes {n low : Nat} (name : RowName) (p mask : BitVec n) (k : BitVec (n + low)) :
    (fieldRow low name p mask).takes k = true ↔ k.extractLsb' low n &&& mask = p := by
  have hand : k &&& (mask ++ 0#low) = (k.extractLsb' low n &&& mask) ++ 0#low := by
    conv_lhs => rw [← BitVec.extractLsb'_append_extractLsb' (x := k)]
    rw [BitVec.and_append, BitVec.and_zero]
  rw [TableRow.takes, fieldRow, hand, beq_iff_eq, BitVec.append_left_inj]

@[simp] theorem keyRow_takes {n : Nat} (name : RowName) (p k : BitVec n) :
    (keyRow name p).takes k = true ↔ k = p := by
  rw [TableRow.takes, keyRow, BitVec.and_allOnes, beq_iff_eq]

/-- The first row that takes a key is the head, or the first of the others. -/
theorem firstRow_cons {n : Nat} (r : TableRow n) (rows : List (TableRow n)) (k : BitVec n) :
    firstRow (r :: rows) k = if r.takes k then some r.name else firstRow rows k := by
  unfold firstRow
  rw [List.find?_cons]
  cases r.takes k <;> rfl

/-- The OP11 rows test the operation code; the four BUILD rows the whole word, codes 6 and 7 two bits of the code. -/
theorem rowsOp11_eq : rowsOp11 =
    [fieldRow 8 .nop (0 : BitVec 3) 7, fieldRow 8 .rxb (1 : BitVec 3) 7, fieldRow 8 .rxclr (2 : BitVec 3) 7,
     fieldRow 8 .stuff (3 : BitVec 3) 7, keyRow .buildLocal (opWord 4 0x08), keyRow .buildLocalq (opWord 4 0x09),
     keyRow .buildTx (opWord 4 0x10), keyRow .buildRemote (opWord 4 0x17), fieldRow 8 .buildOther (4 : BitVec 3) 7,
     fieldRow 8 .fidrst (5 : BitVec 3) 7, fieldRow 8 .illegal (6 : BitVec 3) 6] := rfl

theorem rowsU9_eq : rowsU9 =
    [fieldRow 8 .unescXor (1 : BitVec 1) 1, keyRow .unescMark (u9Key false escByte),
     fieldRow 8 .unescPass (0 : BitVec 1) 1] := rfl

/-- The last S8 row tests a field of no bits: it takes every key. -/
theorem rowsS8_eq : rowsS8 =
    [keyRow .stuffDelim delim, keyRow .stuffEsc escByte, keyRow .stuffXon xon, keyRow .stuffXoff xoff,
     fieldRow 8 .stuffPass 0#0 0#0] := rfl

theorem rowsA12_eq : rowsA12 =
    [keyRow .asmStart 0x07E, fieldRow 9 .asmDrop (0 : BitVec 3) 7, fieldRow 9 .asmLen (1 : BitVec 3) 7,
     fieldRow 9 .asmBody (2 : BitVec 3) 7, fieldRow 9 .asmCksum (3 : BitVec 3) 7,
     fieldRow 9 .asmHold (4 : BitVec 3) 7] := rfl

/-- OP11: by the operation code; under code 4 the table and `decodeBuild` make the same four tests of the immediate. -/
theorem firstRow_rowsOp11 (w : BitVec 11) (d : Descriptor) : firstRow rowsOp11 w = some (decodeOp11 w d).row := by
  obtain ⟨op, imm, rfl⟩ := exists_opWord w
  simp only [rowsOp11_eq, firstRow_cons, fieldRow_takes, keyRow_takes, fieldRow_name, keyRow_name, opCode_opWord,
    opWord_inj, decodeOp11_opWord]
  rcases code_cases op with rfl | rfl | rfl | rfl | rfl | rfl | rfl | rfl
  case inr.inr.inr.inr.inl => -- code 4: the four admitted frame types, then BUILD.other
    rcases frameType_cases imm with rfl | rfl | rfl | rfl | hft
    case inr.inr.inr.inr =>
      obtain ⟨h8, h9, h10, h17⟩ := isBuildable_eq_false.1 hft
      simp only [h8, h9, h10, h17, and_false, if_false, decodeBuild_other hft]
      rfl
    all_goals rfl
  all_goals rfl

/-- U9: by the flag, then by the byte. -/
theorem firstRow_rowsU9 (k : BitVec 9) : firstRow rowsU9 k = some (decodeU9 k).row := by
  obtain ⟨esc, b, rfl⟩ := exists_u9Key k
  simp only [rowsU9_eq, firstRow_cons, fieldRow_takes, keyRow_takes, fieldRow_name, keyRow_name, u9Key_flag, u9Key_inj,
    decodeU9_u9Key]
  cases esc with
  | true => rfl
  | false =>
    by_cases hb : b = escByte
    · rw [hb]; rfl
    · simp only [hb, and_false, if_false]; rfl

/-- S8: the table and `decodeS8` make the same tests of the byte. -/
theorem firstRow_rowsS8 (b : BitVec 8) : firstRow rowsS8 b = some (decodeS8 b).row := by
  simp only [rowsS8_eq, firstRow_cons, fieldRow_takes, keyRow_takes, fieldRow_name, keyRow_name, BitVec.and_zero,
    if_true]
  unfold decodeS8
  split_ifs <;> rfl

/-- A12: the start key first, then by the state code. -/
theorem firstRow_rowsA12 (k : BitVec 12) : firstRow rowsA12 k = (decodeA12 k).toOption.map Instr.row := by
  by_cases hk : k = 0x07E
  · rw [hk]; rfl
  simp only [rowsA12_eq, firstRow_cons, fieldRow_takes, keyRow_takes, fieldRow_name, keyRow_name, decodeA12, hk]
  generalize k.extractLsb' 9 3 = code
  rcases code_cases code with rfl | rfl | rfl | rfl | rfl | rfl | rfl | rfl <;> rfl

/-- Settles O3, format by format. -/
theorem decoderFollowsMatchAndMaskRows : Obligations.DecoderFollowsMatchAndMaskRows := by
  intro k
  cases k with
  | op11 w d => exact firstRow_rowsOp11 w d
  | u9 k => exact firstRow_rowsU9 k
  | s8 b => exact firstRow_rowsS8 b
  | a12 k =>
    refine (firstRow_rowsA12 k).trans ?_
    simp only [decode]
    cases decodeA12 k <;> rfl

/-! ## The stuffer's rows -/

/-- STUFF.PASS gives a byte that is not reserved unchanged (R104). -/
theorem execStuffPass_unreserved {b : Byte} (h : isReserved b = false) (s : State) :
    execStuffPass b s = .next (s.stuffed [b]) := by
  simp [execStuffPass, h]

/-- Settles O20: the four reserved rows are constant, and STUFF.PASS is selected by every other byte. -/
theorem stufferRowsGiveTheirBytes : Obligations.StufferRowsGiveTheirBytes := by
  refine fun s => ⟨rfl, rfl, rfl, rfl, fun b hdelim hesc hxon hxoff => ?_⟩
  exact execStuffPass_unreserved (isReserved_eq_false.2 ⟨hdelim, hesc, hxon, hxoff⟩) s

/-! ## What an operation ignores -/

/-- Beside a word that is none of the four BUILD words the descriptor is dropped (R61, R66). -/
theorem decodeOp11_congr {w : BitVec 11} (d x : Descriptor) (hlocal : w ≠ 0x408) (hlocalq : w ≠ 0x409)
    (htx : w ≠ 0x410) (hremote : w ≠ 0x417) : decodeOp11 w d = decodeOp11 w x := by
  obtain ⟨op, imm, rfl⟩ := exists_opWord w
  rw [decodeOp11_opWord, decodeOp11_opWord]
  by_cases hop : op = 4
  · subst hop
    have himm : isBuildable imm = false :=
      isBuildable_eq_false.2 ⟨fun h => hlocal (h ▸ rfl), fun h => hlocalq (h ▸ rfl), fun h => htx (h ▸ rfl),
        fun h => hremote (h ▸ rfl)⟩
    rw [decodeBuild_other himm, decodeBuild_other himm]
  · rw [if_neg hop, if_neg hop]

/-- The fields of the local BUILDs depend on the name and the parameter (R170, R171). -/
theorem fieldsLocal_congr {d x : Descriptor} (hname : d.name = x.name) (hparam : SameParam d x) :
    fieldsLocal d = fieldsLocal x := by
  rw [fieldsLocal, fieldsLocal, param_congr hparam, hname]

/-- A value that is looked at only where its bit is set. -/
theorem ite_given_congr {α : Type} {g g' : Bool} {a a' other : α} (hg : g = g') (ha : g = true → a = a') :
    (if g then a else other) = if g' then a' else other := by
  subst hg
  exact ite_congr rfl ha fun _ => rfl

/-- The fields of BUILD.REMOTE depend on the given ones of `dest`, `net` and `opt`, the name and the parameter (R173). -/
theorem fieldsRemote_congr {d x : Descriptor} (haddr : SameAddress d x) (hname : d.name = x.name)
    (hparam : SameParam d x) : fieldsRemote d = fieldsRemote x := by
  obtain ⟨hdestGiven, hnetGiven, hoptGiven, hdest, hnet, hopt⟩ := haddr
  unfold fieldsRemote
  rw [param_congr hparam, hname, ite_given_congr hdestGiven hdest, ite_given_congr hnetGiven hnet,
    ite_given_congr hoptGiven hopt]

/-- The fields of BUILD.TX depend on the four address fields where all are given, and on the data (R172). -/
theorem fieldsTx_congr {d x : Descriptor} (haddr : SameAddress d x) (hradiusGiven : d.radiusGiven = x.radiusGiven)
    (hradius : d.radiusGiven = true → d.radius = x.radius) (hdata : d.data = x.data) : fieldsTx d = fieldsTx x := by
  obtain ⟨hdestGiven, hnetGiven, hoptGiven, hdest, hnet, hopt⟩ := haddr
  refine ite_given_congr (by rw [hdestGiven, hnetGiven, hradiusGiven, hoptGiven]) fun hall => ?_
  simp only [Bool.and_eq_true] at hall
  obtain ⟨⟨⟨hd, hn⟩, hr⟩, ho⟩ := hall
  rw [hdest hd, hnet hn, hradius hr, hopt ho, hdata]

/-- Settles O58: the immediates are not looked at, and each BUILD looks at its descriptor only through its fields, `noesc`
and the frame ID. -/
theorem ignoredOperandsHaveNoEffect : Obligations.IgnoredOperandsHaveNoEffect := by
  refine ⟨fun _ _ _ _ _ => ⟨rfl, rfl, rfl, rfl⟩, fun w d x hlocal hlocalq htx hremote => ?_, fun d x s hcommon =>
    ⟨fun hname hparam => ?_, fun haddr hgiven hradius hdata => ?_, fun haddr hname hparam => ?_⟩⟩
  · exact congrArg Except.ok (decodeOp11_congr d x hlocal hlocalq htx hremote)
  · simp only [exec, execBuildLocal, execBuildLocalq, fieldsLocal_congr hname hparam, build_congr _ _ s hcommon,
      and_self]
  · simp only [exec, execBuildTx, fieldsTx_congr haddr hgiven hradius hdata, build_congr _ _ s hcommon]
  · simp only [exec, execBuildRemote, fieldsRemote_congr haddr hname hparam, build_congr _ _ s hcommon]

end Sys2Proof.Machine

/-! The family 40_byte_stuffer.md: the rows of the unstuffer and STUFF, and the two laws of `escape`, each from what the
stuffer does with a reserved byte and with any other. -/

namespace Sys2Proof.Machine

/-! ## The rows -/

/-- Settles O21: in each clause the flag, and for PASS the byte, selects the row. -/
theorem unstufferRowsEmitAndWriteTheFlag : Obligations.UnstufferRowsEmitAndWriteTheFlag := by
  refine fun s => ⟨fun b hset => ?_, fun hclear => ?_, fun b hclear hb => ?_⟩
  · exact if_pos hset
  · exact if_neg (Bool.eq_false_iff.1 hclear)
  · exact (if_neg (Bool.eq_false_iff.1 hclear)).trans (if_neg hb)

/-- Settles O19: the answer of STUFF through `STUFF1`, whatever row the byte selects. -/
theorem stuffEscapesOneByte : Obligations.StuffEscapesOneByte :=
  fun b d s => ⟨congrArg Except.ok (decodeOp11_opWord 3 b d), execStuff_eq b s⟩

/-! ## One byte through the stuffer -/

theorem isReserved_eq_true {b : Byte} :
    isReserved b = true ↔ b = delim ∨ b = escByte ∨ b = xon ∨ b = xoff := by
  simp [isReserved, or_assoc]

theorem stuff1_reserved {b : Byte} (h : isReserved b = true) : stuff1 b = [escByte, b ^^^ stuffMask] :=
  if_pos (isReserved_eq_true.1 h)

theorem stuff1_unreserved {b : Byte} (h : isReserved b = false) : stuff1 b = [b] :=
  if_neg fun hb => Bool.eq_false_iff.1 h (isReserved_eq_true.2 hb)

/-! ## The round trip (R106) -/

/-- An escape marker and the byte after it: the byte is transformed and tagged. -/
theorem unescape_escByte_cons (y : Byte) (rest : List Byte) :
    unescape (escByte :: y :: rest) false =
      ((y ^^^ stuffMask, true) :: (unescape rest false).1, (unescape rest false).2) := rfl

/-- From the clear flag a byte other than the marker is emitted as it is. -/
theorem unescape_cons_of_ne {b : Byte} (hb : b ≠ escByte) (rest : List Byte) :
    unescape (b :: rest) false = ((b, false) :: (unescape rest false).1, (unescape rest false).2) := by
  have hpass : unesc b false = (some (b, false), false) := if_neg hb
  rw [unescape, hpass]
  rfl

/-- From the clear flag the one or two wire bytes of `b` give `b` back with its tag, and leave the flag clear. -/
theorem unescape_stuff1_append (b : Byte) (rest : List Byte) :
    unescape (stuff1 b ++ rest) false =
      ((b, isReserved b) :: (unescape rest false).1, (unescape rest false).2) := by
  cases h : isReserved b with
  | true =>
    have hback : b ^^^ stuffMask ^^^ stuffMask = b := by rw [BitVec.xor_assoc, BitVec.xor_self, BitVec.xor_zero]
    rw [stuff1_reserved h, List.cons_append, List.cons_append, List.nil_append, unescape_escByte_cons, hback]
  | false =>
    obtain ⟨-, hesc, -, -⟩ := isReserved_eq_false.1 h
    rw [stuff1_unreserved h, List.cons_append, List.nil_append, unescape_cons_of_ne hesc]

/-- Settles O50, by induction on the bytes; the failure from the set flag is one computation. -/
theorem unescapeInvertsEscape : Obligations.UnescapeInvertsEscape := by
  refine ⟨fun buf => ?_, rfl⟩
  induction buf with
  | nil => rfl
  | cons b bs ih => rw [escape, unescape_stuff1_append, ih, List.map_cons]

/-! ## What an escaped sequence contains (R107) -/

/-- The four bytes that may follow an escape marker. -/
def IsImage (y : Byte) : Prop := y = 0x5E ∨ y = 0x5D ∨ y = 0x31 ∨ y = 0x33

/-- Every escape marker of the sequence is followed by an image. -/
def MarkersHaveImages (xs : List Byte) : Prop :=
  ∀ pre post : List Byte, xs = pre ++ escByte :: post → ∃ y rest, post = y :: rest ∧ IsImage y

theorem isImage_of_isReserved {b : Byte} (h : isReserved b = true) : IsImage (b ^^^ stuffMask) := by
  unfold IsImage
  rcases isReserved_eq_true.1 h with rfl | rfl | rfl | rfl <;> decide

/-- No image is itself reserved. -/
theorem IsImage.isReserved_eq_false {y : Byte} (h : IsImage y) : isReserved y = false := by
  rcases h with rfl | rfl | rfl | rfl <;> rfl

/-- A wire byte of the stuffer is the marker or is not reserved. -/
theorem mem_stuff1 {b x : Byte} (hx : x ∈ stuff1 b) : x = escByte ∨ isReserved x = false := by
  cases h : isReserved b with
  | true =>
    rw [stuff1_reserved h, List.mem_pair] at hx
    rcases hx with hmarker | rfl
    · exact .inl hmarker
    · exact .inr (isImage_of_isReserved h).isReserved_eq_false
  | false =>
    rw [stuff1_unreserved h, List.mem_singleton] at hx
    exact .inr (hx ▸ h)

theorem mem_escape {buf : List Byte} {x : Byte} (hx : x ∈ escape buf) : x = escByte ∨ isReserved x = false := by
  induction buf with
  | nil => cases hx
  | cons b bs ih => exact (List.mem_append.1 hx).elim mem_stuff1 ih

theorem MarkersHaveImages.nil : MarkersHaveImages [] := by
  intro pre post h
  cases pre <;> cases h

/-- A byte other than the marker may be put in front. -/
theorem MarkersHaveImages.cons {x : Byte} {xs : List Byte} (hx : x ≠ escByte) (h : MarkersHaveImages xs) :
    MarkersHaveImages (x :: xs) := by
  intro pre post heq
  cases pre with
  | nil => exact absurd (List.cons.inj heq).1 hx
  | cons p pre => exact h pre post (List.cons.inj heq).2

/-- A marker with its image may be put in front. -/
theorem MarkersHaveImages.cons_image {y : Byte} {xs : List Byte} (hy : IsImage y) (h : MarkersHaveImages xs) :
    MarkersHaveImages (escByte :: y :: xs) := by
  obtain ⟨-, hesc, -, -⟩ := isReserved_eq_false.1 hy.isReserved_eq_false
  intro pre post heq
  cases pre with
  | nil => exact ⟨y, xs, (List.cons.inj heq).2.symm, hy⟩
  | cons p pre => exact h.cons hesc pre post (List.cons.inj heq).2

theorem escape_markersHaveImages (buf : List Byte) : MarkersHaveImages (escape buf) := by
  induction buf with
  | nil => exact .nil
  | cons b bs ih =>
    rw [escape]
    cases h : isReserved b with
    | true =>
      rw [stuff1_reserved h]
      exact ih.cons_image (isImage_of_isReserved h)
    | false =>
      obtain ⟨-, hesc, -, -⟩ := isReserved_eq_false.1 h
      rw [stuff1_unreserved h]
      exact ih.cons hesc

/-- Settles O51: a byte of the output is the marker or is not reserved, and every marker has its image. -/
theorem escapeLeavesNoStructure : Obligations.EscapeLeavesNoStructure := by
  refine fun buf => ⟨fun b hb => ?_, escape_markersHaveImages buf⟩
  rcases mem_escape hb with rfl | hunreserved
  · decide
  · obtain ⟨hdelim, -, hxon, hxoff⟩ := isReserved_eq_false.1 hunreserved
    exact ⟨hdelim, hxon, hxoff⟩

end Sys2Proof.Machine

/-! The family 41_checksum.md: how the byte sum behaves under appending and changing bytes, and from it the formula of
the checksum, when VALID holds, and which changes it detects. -/

namespace Sys2Proof.Machine

/-! ## The byte sum -/

@[simp] theorem byteSum_nil : byteSum [] = 0 := rfl

@[simp] theorem byteSum_cons (b : Byte) (bs : List Byte) : byteSum (b :: bs) = b.toNat + byteSum bs := rfl

@[simp] theorem byteSum_append (p q : List Byte) : byteSum (p ++ q) = byteSum p + byteSum q := by
  induction p with
  | nil => simp
  | cons b bs ih => simp [ih, Nat.add_assoc]

/-- Changing one byte changes the sum by the difference of the two bytes. -/
theorem byteSum_set {q : List Byte} {i : Nat} {b : Byte} (h : q[i]? = some b) (c : Byte) :
    byteSum (q.set i c) + b.toNat = byteSum q + c.toNat := by
  induction q generalizing i with
  | nil => simp at h
  | cons a q ih =>
    cases i with
    | zero =>
      obtain rfl : a = b := by simpa using h
      simp only [List.set_cons_zero, byteSum_cons]
      omega
    | succ i =>
      have hset := ih (by simpa using h)
      simp only [List.set_cons_succ, byteSum_cons]
      omega

/-- An 8-bit accumulator that wraps holds the sum modulo 256 (R125). -/
theorem foldl_add_eq_byteSum (p : List Byte) (acc : Byte) : p.foldl (· + ·) acc = acc + BitVec.ofNat 8 (byteSum p) := by
  induction p generalizing acc with
  | nil => simp
  | cons b bs ih =>
    rw [List.foldl_cons, ih, byteSum_cons, BitVec.ofNat_add, BitVec.ofNat_toNat, BitVec.setWidth_eq, BitVec.add_assoc]

/-! ## The two functions -/

/-- The subtraction of R120 never borrows, so the byte holds it as it is. -/
theorem toNat_cksum (p : List Byte) : (cksum p).toNat = 0xFF - byteSum p % 256 :=
  Nat.mod_eq_of_lt (by omega)

theorem cksum_eq_not_byteSum (p : List Byte) : cksum p = ~~~BitVec.ofNat 8 (byteSum p) := by
  apply BitVec.eq_of_toNat_eq
  rw [toNat_cksum, BitVec.toNat_not, BitVec.toNat_ofNat]

theorem valid_iff (p : List Byte) : valid p = true ↔ byteSum p % 256 = 0xFF := beq_iff_eq

/-- Settles O52: the accumulator holds the sum modulo 256, and the checksum is its complement. -/
theorem checksumComplementsTheSum : Obligations.ChecksumComplementsTheSum := by
  refine fun p => ⟨toNat_cksum p, ?_⟩
  rw [foldl_add_eq_byteSum, zero_add, cksum_eq_not_byteSum]

/-! ## What VALID accepts (R122) -/

theorem valid_concat_iff (p : List Byte) (c : Byte) : valid (p ++ [c]) = true ↔ c = cksum p := by
  rw [valid_iff, ← BitVec.toNat_inj, toNat_cksum, byteSum_append, byteSum_cons, byteSum_nil]
  have hc := c.isLt
  omega

/-- A sequence read with the byte after it. -/
theorem Memory.readSeq_concat {m : List Host.Cell} {lo n : Nat} {p : List Byte} {c : Byte}
    (hp : Memory.readSeq m lo n = some p) (hc : Memory.read m (lo + n) = some c) :
    Memory.readSeq m lo (n + 1) = some (p ++ [c]) := by
  induction n generalizing lo p with
  | zero =>
    cases hp
    rw [Nat.add_zero] at hc
    simp [Memory.readSeq, hc]
  | succ n ih =>
    rw [Memory.readSeq] at hp
    split at hp
    · next b bs hb hbs =>
      cases hp
      have htail := ih hbs (by rwa [Nat.add_right_comm])
      rw [Memory.readSeq, hb, htail, List.cons_append]
    · cases hp

/-- A slice with the byte after it. -/
theorem State.slice_concat {s : State} {lo hi : Nat} {p : List Byte} {c : Byte} (hlo : lo ≤ hi)
    (hp : s.slice lo hi = some p) (hc : Memory.read s.rxBuf hi = some c) : s.slice lo (hi + 1) = some (p ++ [c]) := by
  unfold State.slice at hp ⊢
  rw [Nat.succ_sub hlo]
  exact Memory.readSeq_concat hp (by rwa [Nat.add_sub_cancel' hlo])

/-- In Complete the two checksum outputs are those of one payload and the byte after it, and `rx_valid` is VALID of both
together. -/
theorem State.Inv.checksum_outputs {s : State} (h : s.Inv) (hs : s.rxState = .complete) :
    ∃ payload c, s.oCkActual = some c ∧ s.oCkExpected = some (cksum payload) ∧ s.rxValid = valid (payload ++ [c]) := by
  obtain ⟨-, hcnt, -, -, hvalid, -⟩ := h.inComplete hs
  obtain ⟨payload, hpayload⟩ := Option.isSome_iff_exists.1
    (h.slice_isSome (lo := 3) (hi := s.rxLen.toNat + 3) (by omega) (by omega))
  obtain ⟨c, hc⟩ := Option.isSome_iff_exists.1 ((h.read_isSome (s.rxLen.toNat + 3)).2 (by omega))
  refine ⟨payload, c, (if_pos hs).trans hc, (if_pos hs).trans (by rw [hpayload]; rfl), ?_⟩
  rw [hcnt, State.slice_concat (by omega) hpayload hc] at hvalid
  exact (Option.some.inj hvalid).symm

/-- A mismatch that ASM.CKSUM reports carries the two checksum outputs of the state it leads to (R135). -/
theorem execAsmCksum_mismatch {e : Bool} {c : Byte} {s t : State} {x y : Byte} (h : execAsmCksum e c s = .next t)
    (hevents : t.out.events = some [.checksumMismatch x y]) : t.oCkExpected = some x ∧ t.oCkActual = some y := by
  rcases execAsmCksum_cases e c s with ⟨-, k⟩ | ⟨-, -, k⟩ | ⟨p, payload, -, -, hcnt, -, hpayload, k⟩ | ⟨-, -, _, k⟩ <;>
    cases k.symm.trans h
  · cases hevents
  · have hreport : (if valid p then [] else [Event.checksumMismatch (cksum payload) c]) = [.checksumMismatch x y] :=
      Option.some.inj hevents
    split at hreport <;> cases hreport
    have hlast : s.rxLen.toNat + 3 = s.rxCnt := by omega
    have hread : Memory.read (s.append c).rxBuf (s.rxLen.toNat + 3) = some c := by
      rw [hlast]; exact Memory.read_write_same ..
    exact ⟨congrArg (Option.map cksum) hpayload, hread⟩

/-- Settles O53: each part from what VALID accepts, read through the outputs. -/
theorem validExactlyForTheComputedChecksum : Obligations.ValidExactlyForTheComputedChecksum := by
  refine ⟨valid_concat_iff, fun s h hs => ?_, fun e c s t x y _ h hevents => execAsmCksum_mismatch (e := e) h hevents⟩
  obtain ⟨payload, c, hactual, hexpected, hvalid⟩ := h.checksum_outputs hs
  rw [hactual, hexpected, hvalid, valid_concat_iff, Option.some_inj]
  exact ⟨rfl, Iff.rfl⟩

/-! ## What VALID detects (R124) -/

/-- Any change of one byte of a valid sequence is detected: it moves the sum by less than 256. -/
theorem valid_set_of_ne {q : List Byte} {i : Nat} {b c : Byte} (hq : valid q = true) (hb : q[i]? = some b)
    (hc : c ≠ b) : valid (q.set i c) = false := by
  rw [valid_iff] at hq
  rw [← Bool.not_eq_true, valid_iff]
  have hset := byteSum_set hb c
  have hne : c.toNat ≠ b.toNat := BitVec.toNat_ne.1 hc
  have hcLt := c.isLt
  have hbLt := b.isLt
  omega

/-- Inverting a bit of a byte changes it. -/
theorem xor_bit_ne (b : Byte) {k : Nat} (hk : k < 8) : b ^^^ (1#8 <<< k) ≠ b := by
  intro h
  have hbit := congrArg (fun x : Byte => x.getLsbD k) h
  simp [hk] at hbit

/-- Settles O54: a payload with its checksum is valid, and an inverted bit changes one byte of it; the two changes that
cancel are one computation. -/
theorem singleBitFlipIsAlwaysDetected : Obligations.SingleBitFlipIsAlwaysDetected := by
  refine ⟨fun p k i b hk hb => ?_, rfl, rfl⟩
  have hvalid : valid (p ++ [cksum p]) = true := (valid_concat_iff p (cksum p)).2 rfl
  exact valid_set_of_ne hvalid hb (xor_bit_ne b hk)

end Sys2Proof.Machine

/-! The family 42_frame_assembler.md: the assembler's rows where they are selected, what RXB does with a byte by the
state it meets, ASSEMBLE of a sequence in parts, and the assembly of a whole escaped frame. -/

namespace Sys2Proof.Machine

/-! ## The keys and the rows they select -/

/-- ASM.START has one key (R131). -/
theorem decodeA12_eq_asmStart_iff (k : BitVec 12) : decodeA12 k = .ok .asmStart ↔ k = 0x07E := by
  refine ⟨fun h => ?_, fun h => h ▸ rfl⟩
  unfold decodeA12 at h
  split at h
  case h_1 =>
    split at h
    case isTrue hk => exact hk
    case isFalse => cases h
  all_goals cases h

/-- The key formed from a state is never rejected (30_encoding.md R68). -/
theorem exists_decodeA12 (x : RxState) (e : Bool) (c : Byte) : ∃ i, decodeA12 (a12Key x.code e c) = .ok i := by
  cases x with
  | empty => exact ⟨_, decodeA12_empty e c⟩
  | awaitingLength => exact ⟨_, decodeA12_length e c⟩
  | awaitingBody => exact ⟨_, decodeA12_body e c⟩
  | awaitingChecksum => exact ⟨_, decodeA12_checksum e c⟩
  | complete => exact ⟨_, decodeA12_complete e c⟩

/-- Performing the row a stuffer key selects is its meaning as an instruction (30_encoding.md R65). -/
theorem performS8_decodeS8 (b : Byte) (s : State) : performS8 (decodeS8 b) s = exec (decodeS8 b) s := by
  unfold decodeS8
  split_ifs <;> rfl

/-- The same for an unstuffer key (30_encoding.md R64). -/
theorem performU9_decodeU9 (k : BitVec 9) (s : State) : performU9 (decodeU9 k) s = exec (decodeU9 k) s := by
  unfold decodeU9
  split_ifs <;> rfl

/-- The same for an assembler key (30_encoding.md R68). -/
theorem performA12_decodeA12 {k : BitVec 12} {i : Instr} (h : decodeA12 k = .ok i) (s : State) :
    performA12 (decodeA12 k) s = exec i s := by
  rw [h]
  unfold decodeA12 at h
  split at h
  case h_1 => split at h <;> cases h <;> rfl
  all_goals cases h <;> rfl

/-- Settles O23: the key of ASM.START by its parts, and the row where it is selected. -/
theorem asmStartBeginsAFrame : Obligations.AsmStartBeginsAFrame := by
  refine ⟨fun code e c => ?_, fun s hs => if_pos hs⟩
  rw [decodeA12_eq_asmStart_iff, ← startKey]
  exact ⟨a12Key_inj, fun ⟨hcode, he, hc⟩ => hcode ▸ he ▸ hc ▸ rfl⟩

/-- Settles O24: the row where it is selected. -/
theorem asmDropReportsTheDroppedByte : Obligations.AsmDropReportsTheDroppedByte :=
  fun _ _ _ hs hc => if_pos ⟨hs, hc⟩

/-! ## The appending rows where there is room -/

/-- The length is a number of 16 bits whatever its two bytes are. -/
theorem toNat_lengthOf (hi lo : Byte) : (lengthOf hi lo).toNat = hi.toNat * 256 + lo.toNat := by
  have hhi := hi.isLt
  have hlo := lo.isLt
  exact Nat.mod_eq_of_lt (by omega)

/-- The byte appended at index 2 is the low byte of the length. -/
theorem declaredLength_append_low {s : State} {hi : Byte} (h2 : s.rxCnt = 2) (hhi : Memory.read s.rxBuf 1 = some hi)
    (c : Byte) : (s.append c).declaredLength = some (lengthOf hi c) := by
  unfold State.declaredLength
  rw [read_append (by omega), hhi, State.append_rxBuf, h2, Memory.read_write_same]

theorem execAsmLen_gather {s : State} (hs : s.rxState = .awaitingLength) (hf : s.bufFull = false)
    (h3 : s.rxCnt + 1 ≠ 3) (e : Bool) (c : Byte) : execAsmLen e c s = .next ((s.append c).report false []) :=
  (if_pos hs).trans ((appendThen_room hf c _).trans (if_neg h3))

theorem execAsmLen_parse {s : State} {hi : Byte} (hs : s.rxState = .awaitingLength) (hf : s.bufFull = false)
    (h2 : s.rxCnt = 2) (hhi : Memory.read s.rxBuf 1 = some hi) (e : Bool) (c : Byte) :
    execAsmLen e c s =
      .next ({ s.append c with rxLen := lengthOf hi c, rxState := .awaitingBody }.report false []) := by
  have h3 : (s.append c).rxCnt = 3 := congrArg (· + 1) h2
  refine (if_pos hs).trans ((appendThen_room hf c _).trans ((if_pos h3).trans ?_))
  rw [declaredLength_append_low h2 hhi]

theorem execAsmBody_room {s : State} (hs : s.rxState = .awaitingBody) (hf : s.bufFull = false) (e : Bool) (c : Byte) :
    execAsmBody e c s = .next
      ({ s.append c with
          rxState := if s.rxCnt + 1 = s.rxLen.toNat + 3 then .awaitingChecksum else .awaitingBody }.report
        false []) := by
  refine (if_pos hs).trans ((appendThen_room hf c _).trans ?_)
  by_cases hlast : s.rxCnt + 1 = s.rxLen.toNat + 3
  · rw [if_pos hlast]
    exact if_pos hlast
  · rw [if_neg hlast, ← hs]
    exact if_neg hlast

/-- Settles O25: the third byte parses the length, any other is gathered. -/
theorem asmLenGathersAndParsesTheLength : Obligations.AsmLenGathersAndParsesTheLength := by
  intro e c s hs hf
  refine ⟨fun h2 => execAsmLen_gather hs hf (by omega) e c, fun hi h2 hhi =>
    ⟨lengthOf hi c, toNat_lengthOf hi c, (execAsmLen_parse hs hf h2 hhi e c).trans ?_⟩⟩
  rw [State.append, h2]
  rfl

/-- Settles O26. -/
theorem asmBodyGathersThePayload : Obligations.AsmBodyGathersThePayload :=
  fun e c _ hs hf => execAsmBody_room hs hf e c

/-! ## The row that completes the frame -/

/-- A sequence read from two memories that agree on its indexes. -/
theorem Memory.readSeq_congr {m m' : List Host.Cell} {lo n : Nat}
    (h : ∀ i, i < lo + n → Memory.read m' i = Memory.read m i) : Memory.readSeq m' lo n = Memory.readSeq m lo n := by
  induction n generalizing lo with
  | zero => rfl
  | succ n ih => rw [Memory.readSeq, Memory.readSeq, h lo (by omega), ih fun i hi => h i (by omega)]

/-- An append leaves a slice of the buffered bytes alone. -/
theorem slice_append {s : State} {lo hi : Nat} (hlo : lo ≤ hi) (hhi : hi ≤ s.rxCnt) (c : Byte) :
    (s.append c).slice lo hi = s.slice lo hi :=
  Memory.readSeq_congr fun i hi' => read_append (by omega) c

theorem valid_concat_eq_decide (p : List Byte) (c : Byte) : valid (p ++ [c]) = decide (c = cksum p) := by
  rw [Bool.eq_iff_iff, valid_concat_iff, decide_eq_true_iff]

/-- The computed checksum is the byte that makes the sum 0xFF modulo 256 (41_checksum.md R121, R122). -/
theorem eq_cksum_iff (p : List Byte) (c : Byte) : c = cksum p ↔ (byteSum p + c.toNat) % 256 = 0xFF := by
  rw [← valid_concat_iff, valid_iff, byteSum_append, byteSum_cons, byteSum_nil, Nat.add_zero]

/-- ASM.CKSUM by the comparison of the received checksum with the computed one (R135). -/
theorem execAsmCksum_room {s : State} {p : List Byte} (hs : s.rxState = .awaitingChecksum) (hf : s.bufFull = false)
    (hn : s.rxCnt = s.rxLen.toNat + 3) (hp : s.slice 3 s.rxCnt = some p) (e : Bool) (c : Byte) :
    execAsmCksum e c s = .next
      ({ s.append c with rxValid := decide (c = cksum p), rxState := .complete }.report true
        (if c = cksum p then [] else [.checksumMismatch (cksum p) c])) := by
  have hpayload : (s.append c).slice 3 s.rxCnt = some p := (slice_append (by omega) le_rfl c).trans hp
  have hall : (s.append c).slice 3 (s.rxCnt + 1) = some (p ++ [c]) :=
    State.slice_concat (by omega) hpayload (Memory.read_write_same ..)
  have hcnt : (s.append c).rxCnt = (s.append c).rxLen.toNat + 4 := congrArg (· + 1) hn
  refine (if_pos hs).trans ((appendThen_room hf c _).trans ((if_pos hcnt).trans ?_))
  rw [State.append_rxCnt, State.append_rxLen, ← hn, hall, hpayload]
  simp only [valid_concat_eq_decide, decide_eq_true_eq, State.append_rxCnt, State.append_rxLen]

/-- In AwaitingChecksum the buffer holds the payload after its first three bytes. -/
theorem State.Inv.payload {s : State} (h : s.Inv) (hs : s.rxState = .awaitingChecksum) :
    s.rxCnt = s.rxLen.toNat + 3 ∧ ∃ p, s.slice 3 s.rxCnt = some p ∧ p.length = s.rxLen.toNat := by
  obtain ⟨-, hn, -⟩ := h.inAwaitingChecksum hs
  obtain ⟨bs, hb, hl⟩ := h.bytes
  refine ⟨hn, _, slice_bytes hb (by omega) hl.ge, ?_⟩
  rw [List.length_take, List.length_drop]
  omega

/-- Settles O27: the payload is valued, and its checksum is the byte that makes the sum 0xFF. -/
theorem asmCksumValidatesTheFrame : Obligations.AsmCksumValidatesTheFrame := by
  intro e c s h hs hf
  obtain ⟨hn, p, hp, hl⟩ := h.payload hs
  refine ⟨p, hn ▸ hp, hl, (execAsmCksum_room hs hf hn hp e c).trans ?_⟩
  simp only [eq_cksum_iff]
  rfl

/-! ## RXB by the state it meets -/

theorem execRxb_faulted {s : State} (hf : s.rxFault = true) (b : Byte) : execRxb b s = .next (s.refuse .rxOverflow) :=
  if_pos hf

theorem execRxb_complete {s : State} (hf : s.rxFault = false) (hs : s.rxState = .complete) (b : Byte) :
    execRxb b s = .next (s.refuse .rxBusy) :=
  (if_neg (Bool.eq_false_iff.1 hf)).trans (if_pos hs)

theorem execRxb_overflows {b : Byte} {s : State} (hf : s.rxFault = false) (hs : s.rxState ≠ .complete)
    (ho : s.overflows b = true) : execRxb b s = .next s.overflow :=
  (if_neg (Bool.eq_false_iff.1 hf)).trans ((if_neg hs).trans (if_pos ho))

/-- Neither refused nor faulted, RXB steps the unstuffer and then the assembler. -/
theorem execRxb_performed {b : Byte} {s : State} (hf : s.rxFault = false) (hs : s.rxState ≠ .complete)
    (ho : s.overflows b = false) :
    execRxb b s =
      stepAssembler (unesc b s.rxEsc).1 (s.okOut.unstuffed (unesc b s.rxEsc).1 (unesc b s.rxEsc).2) := by
  refine (if_neg (Bool.eq_false_iff.1 hf)).trans ((if_neg hs).trans ((if_neg (Bool.eq_false_iff.1 ho)).trans ?_))
  rw [performU9_okOut]
  rfl

/-- In Empty, or where there is room, no byte overflows (R139). -/
theorem overflows_eq_false {b : Byte} {s : State} (h : s.rxState = .empty ∨ s.bufFull = false) :
    s.overflows b = false := by
  rcases h with h | h <;> simp [State.overflows, h]

/-- The source's words for an emission are those of `UNESC` (R101). -/
theorem Emits.unesc_eq {b c : Byte} {esc e : Bool} (h : Emits b esc c e) : unesc b esc = (some (c, e), false) := by
  rcases h with ⟨rfl, rfl, rfl⟩ | ⟨rfl, hb, rfl, rfl⟩
  · rfl
  · exact if_neg hb

/-- RXB of a byte that emits steps the assembler on what it emits. -/
theorem execRxb_of_emits {b c : Byte} {e : Bool} {s : State} (hf : s.rxFault = false) (hs : s.rxState ≠ .complete)
    (hroom : s.rxState = .empty ∨ s.bufFull = false) (h : Emits b s.rxEsc c e) :
    execRxb b s = stepAssembler (some (c, e)) (s.okOut.unstuffed (some (c, e)) false) := by
  rw [execRxb_performed hf hs (overflows_eq_false hroom), h.unesc_eq]

theorem stepAssembler_empty {v : State} (h : v.rxState = .empty) (c : Byte) (e : Bool) :
    stepAssembler (some (c, e)) v = if c = delim ∧ e = false then execAsmStart v else execAsmDrop e c v := by
  rw [stepAssembler_some, h]

theorem stepAssembler_awaitingLength {v : State} (h : v.rxState = .awaitingLength) (c : Byte) (e : Bool) :
    stepAssembler (some (c, e)) v = execAsmLen e c v := by
  rw [stepAssembler_some, h]

theorem stepAssembler_awaitingBody {v : State} (h : v.rxState = .awaitingBody) (c : Byte) (e : Bool) :
    stepAssembler (some (c, e)) v = execAsmBody e c v := by
  rw [stepAssembler_some, h]

theorem stepAssembler_awaitingChecksum {v : State} (h : v.rxState = .awaitingChecksum) (c : Byte) (e : Bool) :
    stepAssembler (some (c, e)) v = execAsmCksum e c v := by
  rw [stepAssembler_some, h]

/-- Settles O28: the row and the operation refuse alike. -/
theorem completeFrameRefusesBytes : Obligations.CompleteFrameRefusesBytes :=
  fun b _ _ _ hs => ⟨if_pos hs, fun hf => execRxb_complete hf hs b⟩

/-- Settles O30: the marker emits nothing, so the capacity does not matter and the assembler is not stepped. -/
theorem rxbTakesAnEscapeMarker : Obligations.RxbTakesAnEscapeMarker := by
  intro s hf hs hesc
  have hmarker : unesc 0x7D s.rxEsc = (none, true) := by rw [hesc]; rfl
  have ho : s.overflows 0x7D = false := by rw [State.overflows, hmarker]; rfl
  refine (execRxb_performed hf hs ho).trans ?_
  rw [hmarker]
  rfl

/-- Settles O22: each `perform` runs its key's row as the instruction, and a state's key always has a row. -/
theorem operationsPerformTheRowsTheirKeysSelect : Obligations.OperationsPerformTheRowsTheirKeysSelect := by
  refine ⟨fun b s => performS8_decodeS8 b s.okOut, fun b s hf hs hroom => ?_⟩
  have hu := (performU9_decodeU9 (u9Key s.rxEsc b) s.okOut).symm.trans (performU9_okOut b s)
  have hrxb := execRxb_performed hf hs (overflows_eq_false (b := b) hroom)
  refine ⟨_, hu, fun hnone => ?_, fun c e hsome => ?_⟩
  · have hemitted : (unesc b s.rxEsc).1 = none := Option.some.inj hnone
    refine hrxb.trans ?_
    rw [hemitted]
    rfl
  · have hemitted : (unesc b s.rxEsc).1 = some (c, e) := Option.some.inj hsome
    obtain ⟨i, hi⟩ := exists_decodeA12 s.rxState e c
    refine ⟨i, hi, hrxb.trans ?_⟩
    rw [hemitted]
    exact performA12_decodeA12 hi _

/-- Settles O31: in Empty the emitted byte selects ASM.START or ASM.DROP. -/
theorem rxbInEmptyStartsAFrameOrDrops : Obligations.RxbInEmptyStartsAFrameOrDrops := by
  intro b c e s hf hs hemits
  have hrxb := execRxb_of_emits hf (by rw [hs]; nofun) (.inl hs) hemits
  rw [stepAssembler_empty (v := s.okOut.unstuffed _ _) hs] at hrxb
  refine ⟨fun hc he => ?_, fun hdrop => ?_⟩
  · exact hrxb.trans ((if_pos ⟨hc, he⟩).trans (if_pos hs))
  · exact hrxb.trans ((if_neg hdrop).trans (if_pos ⟨hs, hdrop⟩))

/-- No assembler row sets `rx_fault` where there is room (R139). -/
theorem AsmNext.rxFault {c : Byte} {e : Bool} {v t : State} (h : AsmNext c e v t) (hroom : v.bufFull = false) :
    t.rxFault = v.rxFault := by
  cases h with
  | full hf => exact nomatch hf.symm.trans hroom
  | start _ ht | drop _ ht | gather _ _ ht | parse _ _ _ _ _ ht | last _ _ _ ht | complete _ _ _ _ _ _ ht
  | hold _ ht => subst ht; rfl

/-- RXB sets `rx_fault` on a full buffer only. -/
theorem execRxb_rxFault {b : Byte} {s t : State} (h : execRxb b s = .next t) (hroom : s.bufFull = false) :
    t.rxFault = s.rxFault := by
  rcases execRxb_next h with
    ⟨-, rfl⟩ | ⟨-, -, rfl⟩ | ⟨-, -, -, hfull, -⟩ | ⟨-, -, -, rfl⟩ | ⟨c, e, -, -, -, -, ha⟩
  · rfl
  · rfl
  · exact nomatch hfull.symm.trans hroom
  · rfl
  · exact ha.rxFault hroom

/-- Settles O33: the overflow, the refusals after it, RXCLR, and a buffer that is never full. -/
theorem rxbOnAFullBufferFaults : Obligations.RxbOnAFullBufferFaults := by
  refine ⟨fun b c e s hf hempty hs hcap hemits => execRxb_overflows hf hs ?_, fun b s hf => execRxb_faulted hf b,
    fun imm s hf => ⟨_, rfl, rfl, rfl, hf⟩, fun b s t hcap hf h => (execRxb_rxFault h ?_).trans hf⟩
  · simp [State.overflows, hemits.unesc_eq, hempty, State.bufFull, hcap, Capacity.isFull]
  · rw [State.bufFull, hcap]
    rfl

/-- RXB of the byte that emits the checksum (R135). -/
theorem execRxb_checksum {b c : Byte} {e : Bool} {s : State} {p : List Byte} (hf : s.rxFault = false)
    (hs : s.rxState = .awaitingChecksum) (hroom : s.bufFull = false) (hn : s.rxCnt = s.rxLen.toNat + 3)
    (hp : s.slice 3 s.rxCnt = some p) (hemits : Emits b s.rxEsc c e) :
    execRxb b s = .next
      ({ (s.okOut.unstuffed (some (c, e)) false).append c with
          rxValid := decide (c = cksum p), rxState := .complete }.report true
        (if c = cksum p then [] else [.checksumMismatch (cksum p) c])) := by
  rw [execRxb_of_emits hf (by rw [hs]; nofun) (.inr hroom) hemits,
    stepAssembler_awaitingChecksum (v := s.okOut.unstuffed _ _) hs]
  exact execAsmCksum_room (s := s.okOut.unstuffed _ _) hs hroom hn hp e c

/-- Settles O32, by the state of the frame: in each the row's own law gives the next state, and in AwaitingChecksum the
invariant of that next state gives what is valid. -/
theorem rxbInsideAFrameAppendsTheByte : Obligations.RxbInsideAFrameAppendsTheByte := by
  intro b c e s h hf hempty hs hroom hemits
  have hrxb := execRxb_of_emits hf hs (.inr hroom) hemits
  cases hst : s.rxState with
  | empty => exact absurd hst hempty
  | complete => exact absurd hst hs
  | awaitingLength =>
    obtain ⟨h1, h2, -, -, hvalid⟩ := h.inAwaitingLength hst
    rw [stepAssembler_awaitingLength (v := s.okOut.unstuffed _ _) hst] at hrxb
    by_cases hcnt : s.rxCnt = 2
    · obtain ⟨hi, hhi⟩ := Option.isSome_iff_exists.1 ((h.read_isSome 1).2 (by omega))
      have hparse := execAsmLen_parse (s := s.okOut.unstuffed (some (c, e)) false) hst hroom hcnt hhi e c
      refine ⟨_, hrxb.trans hparse, rfl, rfl, rfl, hf, rfl, rfl, rfl, ?_, fun hne => ?_, fun _ _ => ?_,
        fun _ => ⟨hvalid, rfl, rfl⟩, nofun⟩
      · exact (if_pos (congrArg (· + 1) hcnt)).symm
      · exact hne.elim (absurd rfl) (absurd (congrArg (· + 1) hcnt))
      · exact declaredLength_append_low hcnt hhi c
    · have hne3 : s.rxCnt + 1 ≠ 3 := by omega
      have hgather := execAsmLen_gather (s := s.okOut.unstuffed (some (c, e)) false) hst hroom hne3 e c
      refine ⟨_, hrxb.trans hgather, rfl, rfl, rfl, hf, rfl, rfl, rfl, ?_, fun _ => rfl,
        fun _ h3 => absurd h3 hne3, fun _ => ⟨hvalid, rfl, rfl⟩, nofun⟩
      exact hst.trans (if_neg hne3).symm
  | awaitingBody =>
    obtain ⟨-, -, -, hvalid, -⟩ := h.inAwaitingBody hst
    rw [stepAssembler_awaitingBody (v := s.okOut.unstuffed _ _) hst] at hrxb
    have hbody := execAsmBody_room (s := s.okOut.unstuffed (some (c, e)) false) hst hroom e c
    exact ⟨_, hrxb.trans hbody, rfl, rfl, rfl, hf, rfl, rfl, rfl, rfl, fun _ => rfl, nofun,
      fun _ => ⟨hvalid, rfl, rfl⟩, nofun⟩
  | awaitingChecksum =>
    obtain ⟨hn, p, hp, -⟩ := h.payload hst
    have hcksum := execRxb_checksum hf hst hroom hn hp hemits
    obtain ⟨-, -, -, -, hslice, -⟩ := (execRxb_inv h hcksum).inComplete rfl
    refine ⟨_, hcksum, rfl, rfl, rfl, hf, rfl, rfl, rfl, rfl, fun _ => rfl, nofun, fun hne => absurd rfl hne,
      fun _ => ⟨rfl, hslice, fun hv => ?_, fun hv => ?_⟩⟩
    · exact congrArg some (if_pos (of_decide_eq_true hv))
    · have hevents : some (if c = cksum p then [] else [Event.checksumMismatch (cksum p) c]) =
          some [.checksumMismatch (cksum p) c] := congrArg some (if_neg (of_decide_eq_false hv))
      have hasm := hrxb.symm.trans hcksum
      rw [stepAssembler_awaitingChecksum (v := s.okOut.unstuffed _ _) hst] at hasm
      obtain ⟨hx, hy⟩ := execAsmCksum_mismatch hasm hevents
      exact ⟨_, _, hx, hy, hevents⟩

/-! ## ASSEMBLE of a sequence in parts (R138, R141) -/

/-- What ASSEMBLE answers when a byte that gave the events `ev` was taken before. -/
def Assembled.after (ev : List Event) (a : Assembled) : Assembled :=
  ⟨a.state, a.completed, a.consumed + 1, ev ++ a.events⟩

theorem assemble_nil (s : State) : assemble [] s = ⟨s, false, 0, []⟩ := rfl

/-- A byte that completes the frame is the last one taken. -/
theorem assemble_cons_done {b : Byte} {s t : State} (h : execRxb b s = .next t) (hok : t.out.status = some .ok)
    (hdone : t.out.done = some true) (rest : List Byte) :
    assemble (b :: rest) s = ⟨t, true, 1, t.out.events.getD []⟩ := by
  simp [assemble, h, hok, hdone]

/-- After a byte that is taken and completes nothing, ASSEMBLE goes on. -/
theorem assemble_cons_onward {b : Byte} {s t : State} (h : execRxb b s = .next t) (hok : t.out.status = some .ok)
    (hdone : t.out.done ≠ some true) (rest : List Byte) :
    assemble (b :: rest) s = (assemble rest t).after (t.out.events.getD []) := by
  simp [assemble, h, hok, hdone, Assembled.after]

/-- ASSEMBLE stops at a byte before counting it, stops after it with a frame, or goes on with the rest. -/
theorem assemble_cons_cases (b : Byte) (s : State) :
    (∃ t, ∀ rest, assemble (b :: rest) s = ⟨t, false, 0, []⟩) ∨
    (∃ t ev, ∀ rest, assemble (b :: rest) s = ⟨t, true, 1, ev⟩) ∨
    (∃ t ev, ∀ rest, assemble (b :: rest) s = (assemble rest t).after ev) := by
  cases h : execRxb b s with
  | next t =>
    by_cases hok : t.out.status = some .ok
    · by_cases hdone : t.out.done = some true
      · exact .inr (.inl ⟨t, _, assemble_cons_done h hok hdone⟩)
      · exact .inr (.inr ⟨t, _, assemble_cons_onward h hok hdone⟩)
    · exact .inl ⟨t, fun rest => by simp [assemble, h, hok]⟩
  | fault r => exact .inl ⟨s, fun rest => by simp [assemble, h]⟩
  | refused r => exact .inl ⟨s, fun rest => by simp [assemble, h]⟩

/-- Bytes after the end of an ASSEMBLE change nothing. -/
theorem assemble_append_of_ended {xs : List Byte} {s : State}
    (h : (assemble xs s).completed = true ∨ (assemble xs s).consumed < xs.length) (ys : List Byte) :
    assemble (xs ++ ys) s = assemble xs s := by
  induction xs generalizing s with
  | nil => simp [assemble_nil] at h
  | cons b xs ih =>
    rcases assemble_cons_cases b s with ⟨t, ht⟩ | ⟨t, ev, ht⟩ | ⟨t, ev, ht⟩
    · exact (ht _).trans (ht _).symm
    · exact (ht _).trans (ht _).symm
    · rw [ht] at h
      rw [List.cons_append, ht, ht, ih (h.imp id Nat.lt_of_succ_lt_succ)]

/-- An ASSEMBLE that took all its bytes without a frame goes on with more bytes from the state it left. -/
theorem assemble_append_of_open {xs : List Byte} {s : State} (hopen : (assemble xs s).completed = false)
    (hall : (assemble xs s).consumed = xs.length) (ys : List Byte) :
    assemble (xs ++ ys) s =
      ⟨(assemble ys (assemble xs s).state).state, (assemble ys (assemble xs s).state).completed,
        xs.length + (assemble ys (assemble xs s).state).consumed,
        (assemble xs s).events ++ (assemble ys (assemble xs s).state).events⟩ := by
  induction xs generalizing s with
  | nil => simp [assemble_nil]
  | cons b xs ih =>
    rcases assemble_cons_cases b s with ⟨t, ht⟩ | ⟨t, ev, ht⟩ | ⟨t, ev, ht⟩
    · rw [ht] at hall; cases hall
    · rw [ht] at hopen; cases hopen
    · rw [ht] at hopen hall
      rw [List.cons_append, ht, ht, ih hopen (Nat.succ_inj.1 hall)]
      simp [Assembled.after, Nat.add_right_comm]

/-- Settles O49. -/
theorem assembleInPartsIsAssembleAtOnce : Obligations.AssembleInPartsIsAssembleAtOnce :=
  fun _ ys _ => ⟨fun h => assemble_append_of_ended h ys, fun hopen hall => assemble_append_of_open hopen hall ys⟩

/-! ## A whole frame (R140)

Which state the assembler is in follows from the invariant and the number of the frame's bytes in the buffer, so the
induction over the wire bytes carries the buffer only. -/

/-- The unescaped bytes of a frame with the length `{hi, lo}` and any checksum byte (30_encoding.md R62). -/
def rawFrame (hi lo : Byte) (payload : List Byte) (c : Byte) : List Byte := [0x7E] ++ [hi, lo] ++ payload ++ [c]

/-- The buffer of `s` holds exactly the bytes `bs`, in a state of the invariant without a fault; the parameter and the
generator are those of `r`, the state in which the assembly began. -/
structure Gathered (r : State) (bs : List Byte) (s : State) : Prop where
  inv : s.Inv
  buffer : s.rxBuf = cellsFrom 0 bs
  fault : s.rxFault = false
  cfg : s.cfg = r.cfg
  fidNext : s.fidNext = r.fidNext

theorem Gathered.rxCnt {r s : State} {bs : List Byte} (h : Gathered r bs s) : s.rxCnt = bs.length := by
  have hlen := congrArg List.length h.inv.filled
  rw [h.buffer, cellsFrom_fst, List.length_range', List.length_range] at hlen
  exact hlen.symm

/-- Where the capacity holds more bytes than have been gathered there is room. -/
theorem Gathered.room {r s : State} {bs : List Byte} {n : Nat} (h : Gathered r bs s)
    (hcap : Capacity.holds r.cfg.rxCap n = true) (hlt : bs.length < n) : s.bufFull = false := by
  unfold State.bufFull
  rw [h.cfg, h.rxCnt]
  cases hc : r.cfg.rxCap with
  | inf => rfl
  | finite m =>
    rw [hc] at hcap
    simp only [Capacity.holds, decide_eq_true_eq] at hcap
    simp only [Capacity.isFull, beq_eq_false_iff_ne, ne_eq]
    omega

/-- The unstuffer's flag and the outputs do not matter. -/
theorem Gathered.withFlag {r s : State} {bs : List Byte} (h : Gathered r bs s) (hs : s.rxState ≠ .complete)
    (esc : Bool) (o : OpOut) : Gathered r bs { s with rxEsc := esc, out := o } :=
  ⟨h.inv.congr rfl rfl rfl rfl rfl rfl (fun hc => absurd hc hs) h.inv.fidRange, h.buffer, h.fault, h.cfg, h.fidNext⟩

section

variable {r s : State} {bs payload : List Byte} {hi lo c : Byte}

/-- Once three bytes of the frame are gathered, its length is the one they declare. -/
theorem Gathered.rxLen (h : Gathered r bs s) (hp : bs <+: rawFrame hi lo payload c) (h3 : 3 ≤ bs.length)
    (hlen : hi.toNat * 256 + lo.toNat = payload.length) (hd : s.declaredLength = some s.rxLen) :
    s.rxLen.toNat = payload.length := by
  have h1 : bs[1]? = some hi := (List.getElem?_eq_getElem (by omega)).trans (congrArg some (hp.getElem (by omega)))
  have h2 : bs[2]? = some lo := (List.getElem?_eq_getElem (by omega)).trans (congrArg some (hp.getElem (by omega)))
  unfold State.declaredLength at hd
  rw [h.buffer, read_bytes, read_bytes, h1, h2] at hd
  rw [← Option.some.inj hd, toNat_lengthOf, hlen]

/-- The state of the assembler by the number of bytes gathered. -/
theorem Gathered.inFrame (h : Gathered r bs s) (hp : bs <+: rawFrame hi lo payload c) (hne : bs ≠ [])
    (hlen : hi.toNat * 256 + lo.toNat = payload.length) (hpos : 1 ≤ payload.length)
    (hlt : bs.length < payload.length + 4) :
    s.rxState ≠ .empty ∧ s.rxState ≠ .complete ∧
      (s.rxState = .awaitingChecksum ↔ bs.length = payload.length + 3) := by
  have hcnt := h.rxCnt
  have hpos' := List.length_pos_of_ne_nil hne
  have hdeclared := h.rxLen hp (hlen := hlen)
  cases hs : s.rxState with
  | empty =>
    obtain ⟨h0, -⟩ := h.inv.inEmpty hs
    omega
  | awaitingLength =>
    obtain ⟨-, h2, -⟩ := h.inv.inAwaitingLength hs
    exact ⟨nofun, nofun, iff_of_false nofun (by omega)⟩
  | awaitingBody =>
    obtain ⟨h3, -, hd, -, hle⟩ := h.inv.inAwaitingBody hs
    have hrxLen := hdeclared (by omega) hd
    exact ⟨nofun, nofun, iff_of_false nofun (by omega)⟩
  | awaitingChecksum =>
    obtain ⟨-, hn, -, hd, -⟩ := h.inv.inAwaitingChecksum hs
    have hrxLen := hdeclared (by omega) hd
    exact ⟨nofun, nofun, iff_of_true rfl (by omega)⟩
  | complete =>
    obtain ⟨-, hn, -, hd, -⟩ := h.inv.inComplete hs
    have hrxLen := hdeclared (by omega) hd
    omega

end

/-! ### One byte of the frame on the wire -/

theorem emits_stuffed (b : Byte) : Emits (b ^^^ stuffMask) true b true := by
  refine .inl ⟨rfl, ?_, rfl⟩
  rw [BitVec.xor_assoc, BitVec.xor_self, BitVec.xor_zero]

theorem assemble_singleton {b : Byte} {s t : State} (h : execRxb b s = .next t) (hok : t.out.status = some .ok) :
    assemble [b] s = ⟨t, t.out.done == some true, 1, t.out.events.getD []⟩ := by
  by_cases hdone : t.out.done = some true
  · rw [assemble_cons_done h hok hdone, hdone]
    rfl
  · rw [assemble_cons_onward h hok hdone, assemble_nil, beq_false_of_ne hdone]
    simp [Assembled.after]

/-- The one or two wire bytes of `b` are the RXB that emits `b`, after a marker where `b` is reserved. -/
theorem exists_assemble_stuff1 (b : Byte) {s : State} (hf : s.rxFault = false) (hs : s.rxState ≠ .complete)
    (hesc : s.rxEsc = false) :
    ∃ (y : Byte) (o : OpOut), Emits y (isReserved b) b (isReserved b) ∧
      ∀ t, execRxb y { s with rxEsc := isReserved b, out := o } = .next t → t.out.status = some .ok →
        assemble (stuff1 b) s = ⟨t, t.out.done == some true, (stuff1 b).length, t.out.events.getD []⟩ := by
  cases hb : isReserved b with
  | true =>
    have hmarker := rxbTakesAnEscapeMarker s hf hs hesc
    refine ⟨b ^^^ stuffMask, { status := some .ok, uOut := some none, done := some false, events := some [] },
      emits_stuffed b, fun t ht hok => ?_⟩
    rw [stuff1_reserved hb, assemble_cons_onward hmarker rfl nofun, assemble_singleton ht hok]
    rfl
  | false =>
    obtain ⟨-, hne, -, -⟩ := isReserved_eq_false.1 hb
    refine ⟨b, s.out, .inr ⟨rfl, hne, rfl, rfl⟩, fun t ht hok => ?_⟩
    rw [← hesc] at ht
    rw [stuff1_unreserved hb, assemble_singleton ht hok]
    rfl

/-- A byte before the checksum is gathered: nothing completes and nothing is reported. -/
theorem Gathered.assemble_stuff1 {r s : State} {bs : List Byte} (h : Gathered r bs s) (hempty : s.rxState ≠ .empty)
    (hs : s.rxState ≠ .complete) (hck : s.rxState ≠ .awaitingChecksum) (hroom : s.bufFull = false)
    (hesc : s.rxEsc = false) (b : Byte) :
    ∃ t, assemble (stuff1 b) s = ⟨t, false, (stuff1 b).length, []⟩ ∧ Gathered r (bs ++ [b]) t ∧ t.rxEsc = false := by
  obtain ⟨y, o, hemits, hasm⟩ := exists_assemble_stuff1 b h.fault hs hesc
  have hu := h.withFlag hs (isReserved b) o
  obtain ⟨t, ht, hbuf, -, htesc, htfault, htfid, hok, -, -, -, -, hrest, -⟩ :=
    rxbInsideAFrameAppendsTheByte y b _ _ hu.inv hu.fault hempty hs hroom hemits
  obtain ⟨-, hdone, hevents⟩ := hrest hck
  obtain ⟨hcfg, -, -⟩ := (execRxb_receiveFrame ht).around
  refine ⟨t, ?_, ⟨execRxb_inv hu.inv ht, ?_, htfault, hcfg.trans hu.cfg, htfid.trans hu.fidNext⟩, htesc⟩
  · rw [hasm t ht hok, hdone, hevents]
    rfl
  · exact hbuf.trans (write_bytes h.buffer h.rxCnt.symm b)

/-- The checksum byte completes the frame. -/
theorem Gathered.assemble_checksum {r s : State} {bs payload : List Byte} (h : Gathered r bs s)
    (hs : s.rxState = .awaitingChecksum) (hroom : s.bufFull = false) (hesc : s.rxEsc = false)
    (hpayload : bs.drop 3 = payload) (c : Byte) :
    ∃ q, assemble (stuff1 c) s = ⟨q, true, (stuff1 c).length,
          if c = cksum payload then [] else [.checksumMismatch (cksum payload) c]⟩ ∧
      Gathered r (bs ++ [c]) q ∧ q.rxState = .complete ∧ q.rxValid = decide (c = cksum payload) ∧ q.rxEsc = false := by
  have hs' : s.rxState ≠ .complete := by rw [hs]; nofun
  obtain ⟨y, o, hemits, hasm⟩ := exists_assemble_stuff1 c h.fault hs' hesc
  have hu := h.withFlag hs' (isReserved c) o
  obtain ⟨-, hn, -⟩ := h.inv.inAwaitingChecksum hs
  have hp : s.slice 3 s.rxCnt = some payload := by
    rw [h.rxCnt, slice_bytes h.buffer (by rw [← h.rxCnt]; omega) le_rfl, hpayload.symm, List.take_of_length_le]
    rw [List.length_drop]
  have hx := execRxb_checksum hu.fault hs hroom hn hp hemits
  refine ⟨_, hasm _ hx rfl, ⟨execRxb_inv hu.inv hx, ?_, h.fault, h.cfg, h.fidNext⟩, rfl, rfl, rfl⟩
  exact write_bytes h.buffer h.rxCnt.symm c

/-! ### All of them -/

/-- `assemble_append_of_open` for a first part whose answer is known. -/
theorem assemble_append {xs : List Byte} {s t : State} {ev : List Event}
    (h : assemble xs s = ⟨t, false, xs.length, ev⟩) (ys : List Byte) :
    assemble (xs ++ ys) s =
      ⟨(assemble ys t).state, (assemble ys t).completed, xs.length + (assemble ys t).consumed,
        ev ++ (assemble ys t).events⟩ := by
  have hopen : (assemble xs s).completed = false := by rw [h]
  have hall : (assemble xs s).consumed = xs.length := by rw [h]
  rw [assemble_append_of_open hopen hall, h]

theorem escape_append (xs ys : List Byte) : escape (xs ++ ys) = escape xs ++ escape ys := by
  induction xs with
  | nil => rfl
  | cons b xs ih => rw [List.cons_append, escape, escape, ih, List.append_assoc]

theorem escape_singleton (b : Byte) : escape [b] = stuff1 b := List.append_nil _

/-- The escaped bytes of a frame up to its checksum are gathered, by induction on them. -/
theorem Gathered.assemble_escape {r s : State} {bs xs payload : List Byte} {hi lo c : Byte} (h : Gathered r bs s)
    (hesc : s.rxEsc = false) (hne : bs ≠ []) (hp : bs ++ xs <+: rawFrame hi lo payload c)
    (hlen : hi.toNat * 256 + lo.toNat = payload.length) (hpos : 1 ≤ payload.length)
    (hle : bs.length + xs.length ≤ payload.length + 3)
    (hcap : Capacity.holds r.cfg.rxCap (payload.length + 4) = true) :
    ∃ t, assemble (escape xs) s = ⟨t, false, (escape xs).length, []⟩ ∧ Gathered r (bs ++ xs) t ∧ t.rxEsc = false := by
  induction xs generalizing bs s with
  | nil => exact ⟨s, rfl, by rwa [List.append_nil], hesc⟩
  | cons b xs ih =>
    rw [List.length_cons] at hle
    obtain ⟨hempty, hs, hck⟩ := h.inFrame ((List.prefix_append bs _).trans hp) hne hlen hpos (by omega)
    obtain ⟨u, hu, hgu, hescu⟩ :=
      h.assemble_stuff1 hempty hs (fun hst => absurd (hck.1 hst) (by omega)) (h.room hcap (by omega)) hesc b
    rw [List.append_cons] at hp
    obtain ⟨t, ht, hgt, hesct⟩ := ih hgu hescu (by simp) hp (by rw [List.length_append, List.length_singleton]; omega)
    refine ⟨t, ?_, by rwa [List.append_cons], hesct⟩
    rw [escape, assemble_append hu, ht, List.length_append]
    rfl

/-- The delimiter begins a frame between frames. -/
theorem State.Clean.assemble_delim {r : State} (h : r.Clean) :
    ∃ t, assemble [0x7E] r = ⟨t, false, 1, []⟩ ∧ Gathered r [0x7E] t ∧ t.rxEsc = false := by
  obtain ⟨hs, hesc, hf, hinv⟩ := h
  obtain ⟨hstart, -⟩ := rxbInEmptyStartsAFrameOrDrops 0x7E 0x7E false r hf hs (.inr ⟨hesc, by decide, rfl, rfl⟩)
  have hx := hstart rfl rfl
  have hempty : r.rxBuf = [] := by
    have hfilled := hinv.filled
    rw [(hinv.inEmpty hs).1] at hfilled
    exact List.map_eq_nil_iff.1 hfilled
  refine ⟨_, assemble_singleton hx rfl, ⟨execRxb_inv hinv hx, ?_, hf, rfl, rfl⟩, rfl⟩
  simp [hempty, Memory.write, cellsFrom]

/-- Settles O48: the delimiter, then by induction the bytes up to the checksum, then the checksum. -/
theorem escapedFrameAssemblesWithAnyChecksum : Obligations.EscapedFrameAssemblesWithAnyChecksum := by
  intro payload c hi lo r hpos hlen hclean hcap
  obtain ⟨s, hs, hgs, hescs⟩ := hclean.assemble_delim
  obtain ⟨t, ht, hgt, hesct⟩ :=
    hgs.assemble_escape (xs := [hi, lo] ++ payload) (c := c) hescs nofun ⟨[c], by simp [rawFrame]⟩ hlen hpos
      (by simp; omega) hcap
  have hcount : ([0x7E] ++ ([hi, lo] ++ payload)).length = payload.length + 3 := by simp
  obtain ⟨-, -, hck⟩ := hgt.inFrame (c := c) ⟨[c], by simp [rawFrame]⟩ nofun hlen hpos (by omega)
  obtain ⟨q, hq, hgq, hcomplete, hvalid, hescq⟩ :=
    hgt.assemble_checksum (hck.2 hcount) (hgt.room hcap (by omega)) hesct (payload := payload) rfl c
  refine ⟨q, ?_, hcomplete, hvalid, ?_, hescq, hgq.fidNext⟩
  · rw [escape_append, escape_singleton, assemble_append hs, assemble_append ht, hq]
    simp
    omega
  · unfold State.oRaw
    rw [slice_bytes hgq.buffer (Nat.zero_le _) hgq.rxCnt.le, hgq.rxCnt]
    simp

end Sys2Proof.Machine

/-! The family 43_frame_builder.md: the frame ID generator, the integers and the parameter, what the BUILDs answer, the
layout and the size of a frame, and the assembly of a built frame. -/

namespace Sys2Proof.Machine

/-! ## The frame ID generator (R160, R162) -/

/-- The cycle 1..255 as arithmetic. -/
theorem toNat_fidAfter (v : Byte) : (fidAfter v).toNat = v.toNat % 255 + 1 := by
  unfold fidAfter
  split
  · next h => rw [h]; rfl
  · bv_omega

/-- Settles O55, by induction on the number of draws. -/
theorem frameIdsCycleFromOneTo255 : Obligations.FrameIdsCycleFromOneTo255 := by
  refine ⟨fun n => ?_, fun d v hd => if_neg (by simp [hd])⟩
  induction n with
  | zero => rfl
  | succ n ih =>
    rw [Function.iterate_succ_apply', toNat_fidAfter, ih]
    omega

/-! ## Integers (R161) -/

theorem length_be (v w : Nat) : (be v w).length = w := by
  induction w with
  | zero => rfl
  | succ w ih => rw [be, List.length_cons, ih]

/-- The `w` big-endian bytes of `v` stand for its low `w` bytes. -/
theorem beValue_be (v w : Nat) : beValue (be v w) = v % 256 ^ w := by
  induction w with
  | zero => simp [be, beValue, Nat.mod_one]
  | succ w ih =>
    have hsplit : v % 256 ^ (w + 1) = v % 256 ^ w + 256 ^ w * (v / 256 ^ w % 256) := by rw [Nat.pow_succ, Nat.mod_mul]
    rw [be, beValue, length_be, ih, BitVec.toNat_ofNat, hsplit, Nat.mul_comm, Nat.add_comm]

theorem beValue_be_of_lt {v w : Nat} (h : v < 2 ^ (8 * w)) : beValue (be v w) = v := by
  rw [beValue_be, Nat.mod_eq_of_lt]
  rwa [Nat.pow_mul] at h

/-- An explicit width of 1 to 8 into which the value fits. -/
theorem int2bytesSized_fits {v w : Nat} (h1 : 1 ≤ w) (h8 : w ≤ 8) (hv : v < 2 ^ (8 * w)) :
    int2bytesSized v w = .ok (be v w) := by
  rw [int2bytesSized, intWMax, if_neg (by omega), if_neg (by omega)]

/-- A width outside 1 to 8, or a value that does not fit. -/
theorem int2bytesSized_refused {v w : Nat} (h : w < 1 ∨ 8 < w ∨ 2 ^ (8 * w) ≤ v) :
    int2bytesSized v w = .error .intRange := by
  unfold int2bytesSized
  by_cases hw : w < 1 ∨ w > 8
  · rw [if_pos hw]
  · rw [if_neg hw, if_pos (by omega)]

/-- The automatic width by the magnitude of the value. -/
def autoWidth (v : Nat) : Nat := if v < 2 ^ 8 then 1 else if v < 2 ^ 16 then 2 else 4

theorem int2bytesAuto_fits {v : Nat} (hv : v < 2 ^ 32) : int2bytesAuto v = .ok (be v (autoWidth v)) := by
  unfold int2bytesAuto autoWidth
  by_cases h8 : v < 2 ^ 8
  · rw [if_pos h8, if_pos h8]
  · by_cases h16 : v < 2 ^ 16
    · rw [if_neg h8, if_pos h16, if_neg h8, if_pos h16]
    · rw [if_neg h8, if_neg h16, if_pos hv, if_neg h8, if_neg h16]

theorem lt_autoWidth {v : Nat} (hv : v < 2 ^ 32) : v < 2 ^ (8 * autoWidth v) := by
  unfold autoWidth
  split
  · assumption
  · split <;> assumption

theorem int2bytesAuto_refused {v : Nat} (hv : 2 ^ 32 ≤ v) : int2bytesAuto v = .error .intRange := by
  rw [int2bytesAuto, if_neg (by omega), if_neg (by omega), if_neg (by omega)]

/-- Settles O56: by the widths and values that fit, and those that do not. -/
theorem integersAreBigEndianOrRefused : Obligations.IntegersAreBigEndianOrRefused :=
  ⟨fun v w h1 h8 hv => ⟨_, int2bytesSized_fits h1 h8 hv, length_be v w, beValue_be_of_lt hv⟩,
    fun _ _ => int2bytesSized_refused,
    fun v hv => ⟨_, int2bytesAuto_fits hv, beValue_be_of_lt (lt_autoWidth hv), length_be v _⟩,
    fun _ => int2bytesAuto_refused⟩

/-! ## The parameter (R163) -/

/-- Settles O57: the match on the kind. -/
theorem parameterFollowsItsKind : Obligations.ParameterFollowsItsKind := by
  refine fun d => ⟨fun h => ?_, fun h => ?_, fun h => ?_, fun h => ?_⟩
  all_goals rw [param, h]

/-- Only an integer out of range makes a parameter refused. -/
theorem param_error {d : Descriptor} {x : Status} (h : param d = .error x) : x = .intRange := by
  obtain ⟨habsent, hbytes, hauto, hsized⟩ := parameterFollowsItsKind d
  cases hk : d.paramKind with
  | absent => rw [habsent hk] at h; cases h
  | bytes => rw [hbytes hk] at h; cases h
  | intAuto =>
    rw [hauto hk] at h
    by_cases hv : d.paramInt.toNat < 2 ^ 32
    · rw [int2bytesAuto_fits hv] at h; cases h
    · rw [int2bytesAuto_refused (by omega)] at h; cases h; rfl
  | intSized =>
    rw [hsized hk] at h
    by_cases hw : d.paramW.toNat < 1 ∨ 8 < d.paramW.toNat ∨ 2 ^ (8 * d.paramW.toNat) ≤ d.paramInt.toNat
    · rw [int2bytesSized_refused hw] at h; cases h; rfl
    · rw [int2bytesSized_fits (by omega) (by omega) (by omega)] at h; cases h

/-! ## What a BUILD answers (R164, R166) -/

theorem build_accepted (ft : Byte) {fs : List Byte} (d : Descriptor) (s : State) (h : 2 + fs.length ≤ 65535) :
    build ft (.ok fs) d s = builtState ft d fs s := by
  rcases build_cases ft (.ok fs) d s with ⟨x, hx, -⟩ | ⟨gs, hgs, hlong, -⟩ | ⟨gs, hgs, -, hb⟩
  · cases hx
  · cases hgs; exact absurd h (Nat.not_le.2 hlong)
  · cases hgs
    rw [hb, builtState]
    unfold chooseFid
    cases d.fidGiven <;> rfl

theorem build_tooLong (ft : Byte) {fs : List Byte} (d : Descriptor) (s : State) (h : 65535 < 2 + fs.length) :
    build ft (.ok fs) d s = refusedState .buildTooLong s := if_pos h

/-- What an accepted BUILD puts out fits the 16-bit length, and is the frame with the ID it reports. -/
theorem build_txOut {ft f : Byte} {fs w : List Byte} {d : Descriptor} {s : State}
    (hw : (build ft (.ok fs) d s).out.txOut = some w) (hf : (build ft (.ok fs) d s).out.txFid = some f) :
    2 + fs.length ≤ 65535 ∧ w = frame ft f fs d.noesc := by
  by_cases h : 2 + fs.length ≤ 65535
  · rw [build_accepted ft d s h] at hw hf
    cases hw
    cases hf
    exact ⟨h, rfl⟩
  · rw [build_tooLong ft d s (by omega)] at hw
    cases hw

/-- The three answers of a BUILD whose fields end with the parameter (R170, R171, R173). -/
theorem build_withParam (ft : Byte) {fields : Except Status (List Byte)} {pre : List Byte} (d : Descriptor) (s : State)
    (hok : ∀ p, param d = .ok p → fields = .ok (pre ++ p)) (herr : ∀ x, param d = .error x → fields = .error x) :
    (∀ p, param d = .ok p → 2 + (pre ++ p).length ≤ 65535 →
      (.next (build ft fields d s) : Answer) = .next (builtState ft d (pre ++ p) s)) ∧
    (∀ p, param d = .ok p → 65535 < 2 + (pre ++ p).length →
      (.next (build ft fields d s) : Answer) = .next (refusedState .buildTooLong s)) ∧
    (∀ x, param d = .error x →
      x = .intRange ∧ (.next (build ft fields d s) : Answer) = .next (refusedState .intRange s)) := by
  refine ⟨fun p hp hlen => ?_, fun p hp hlen => ?_, fun x hx => ?_⟩
  · rw [hok p hp, build_accepted ft d s hlen]
  · rw [hok p hp, build_tooLong ft d s hlen]
  · obtain rfl := param_error hx
    rw [herr _ hx]
    exact ⟨rfl, rfl⟩

theorem fieldsLocal_ok {d : Descriptor} {p : List Byte} (h : param d = .ok p) : fieldsLocal d = .ok (d.name ++ p) := by
  rw [fieldsLocal, h]

theorem fieldsLocal_error {d : Descriptor} {x : Status} (h : param d = .error x) : fieldsLocal d = .error x := by
  rw [fieldsLocal, h]

/-- Settles O41: BUILD.LOCAL ends its fields with the parameter. -/
theorem buildLocalFramesNameThenParameter : Obligations.BuildLocalFramesNameThenParameter :=
  fun d s => ⟨rfl, build_withParam 0x08 d s (fun _ => fieldsLocal_ok) fun _ => fieldsLocal_error⟩

/-- Settles O42: the fields of BUILD.LOCAL under type 0x09. -/
theorem buildLocalqFramesNameThenParameter : Obligations.BuildLocalqFramesNameThenParameter :=
  fun d s => ⟨rfl, build_withParam 0x09 d s (fun _ => fieldsLocal_ok) fun _ => fieldsLocal_error⟩

/-- The fields of BUILD.TX where all four of the address are given (R172). -/
theorem fieldsTx_given {d : Descriptor} (hdest : d.destGiven = true) (hnet : d.netGiven = true)
    (hradius : d.radiusGiven = true) (hopt : d.optGiven = true) :
    fieldsTx d = .ok
      (d.dest.toList ++ [d.net.extractLsb' 8 8, d.net.extractLsb' 0 8] ++ [d.radius, d.opt] ++ d.data) := by
  simp [fieldsTx, hdest, hnet, hradius, hopt, be16]

theorem fieldsTx_missing {d : Descriptor}
    (h : d.destGiven = false ∨ d.netGiven = false ∨ d.radiusGiven = false ∨ d.optGiven = false) :
    fieldsTx d = .error .missingField := by
  refine if_neg fun hall => ?_
  simp only [Bool.and_eq_true] at hall
  obtain ⟨⟨⟨hdest, hnet⟩, hradius⟩, hopt⟩ := hall
  simp [hdest, hnet, hradius, hopt] at h

/-- Settles O43: the address takes 12 bytes, so 65521 bytes of data are the most that fit. -/
theorem buildTxFramesAddressesThenData : Obligations.BuildTxFramesAddressesThenData := by
  refine fun d s => ⟨rfl, fun hdest hnet hradius hopt hlen => congrArg Host.Outcome.next ?_,
    fun hdest hnet hradius hopt hlen => congrArg Host.Outcome.next ?_, fun h => congrArg Host.Outcome.next ?_⟩
  · rw [fieldsTx_given hdest hnet hradius hopt, build_accepted _ _ _ (by simp; omega)]
  · rw [fieldsTx_given hdest hnet hradius hopt, build_tooLong _ _ _ (by simp; omega)]
  · rw [fieldsTx_missing h]
    rfl

/-- What BUILD.REMOTE frames before the name: the address fields, each given or at its default (R173). -/
def remoteAddress (d : Descriptor) : List Byte :=
  (if d.destGiven then d.dest.toList else [0x00, 0x00, 0x00, 0x00, 0x00, 0x00, 0xFF, 0xFF]) ++
  (if d.netGiven then [d.net.extractLsb' 8 8, d.net.extractLsb' 0 8] else [0xFF, 0xFE]) ++
  [if d.optGiven then d.opt else 0x02]

theorem fieldsRemote_ok {d : Descriptor} {p : List Byte} (h : param d = .ok p) :
    fieldsRemote d = .ok (remoteAddress d ++ d.name ++ p) := by
  have hbroadcast : broadcast.toList = [0x00, 0x00, 0x00, 0x00, 0x00, 0x00, 0xFF, 0xFF] := rfl
  have hunknown : be16 unknownNet = [0xFF, 0xFE] := by decide
  simp only [fieldsRemote, remoteAddress, h, apply_ite Vector.toList, apply_ite be16, hbroadcast, hunknown]
  rfl

theorem fieldsRemote_error {d : Descriptor} {x : Status} (h : param d = .error x) : fieldsRemote d = .error x := by
  rw [fieldsRemote, h]

/-- Settles O44: BUILD.REMOTE ends its fields with the parameter too. -/
theorem buildRemoteTakesItsDefaults : Obligations.BuildRemoteTakesItsDefaults :=
  fun d s => ⟨rfl, build_withParam 0x17 d s (fun _ => fieldsRemote_ok) fun _ => fieldsRemote_error⟩

/-- Settles O18: the word is decoded as the remainder, which is not one of the admitted types. -/
theorem otherFrameTypesAreRefused : Obligations.OtherFrameTypesAreRefused := by
  intro ft d s h8 h9 h10 h17
  have hft := isBuildable_eq_false.2 ⟨h8, h9, h10, h17⟩
  exact ⟨congrArg Except.ok ((decodeOp11_opWord 4 ft d).trans (decodeBuild_other hft d)), if_neg (by simp [hft])⟩

/-! ## The layout of a frame (R165) -/

/-- A length of 16 bits is its two bytes, most significant first. -/
theorem exists_be16_ofNat {n : Nat} (h : n < 65536) :
    ∃ hi lo : Byte, be16 (BitVec.ofNat 16 n) = [hi, lo] ∧ hi.toNat * 256 + lo.toNat = n := by
  refine ⟨_, _, rfl, ?_⟩
  rw [BitVec.extractLsb'_toNat, BitVec.extractLsb'_toNat, BitVec.toNat_ofNat, Nat.shiftRight_eq_div_pow]
  omega

/-- Settles O45: the payload fits 16 bits, so its length is the two bytes that stand for it. -/
theorem frameLayoutAndEscaping : Obligations.FrameLayoutAndEscaping := by
  intro ft fid fields hfit
  obtain ⟨hi, lo, hbytes, hlen⟩ := exists_be16_ofNat (n := ([ft, fid] ++ fields).length) (by simp; omega)
  refine ⟨hi, lo, hlen.trans (by simp; omega), ?_, ?_⟩
  · rw [frame, if_pos rfl, unescapedFrame, hbytes]
  · rw [frame, if_neg Bool.false_ne_true, unescapedFrame, hbytes]
    rfl

/-! ## The size of a frame (R176) -/

theorem length_stuff1 (b : Byte) : (stuff1 b).length = 1 + reservedCount [b] := by
  cases h : isReserved b with
  | true => simp [stuff1_reserved h, reservedCount, h]
  | false => simp [stuff1_unreserved h, reservedCount, h]

theorem reservedCount_append (xs ys : List Byte) : reservedCount (xs ++ ys) = reservedCount xs + reservedCount ys := by
  rw [reservedCount, List.filter_append, List.length_append, reservedCount, reservedCount]

/-- The stuffer adds one byte for every reserved one. -/
theorem length_escape (bs : List Byte) : (escape bs).length = bs.length + reservedCount bs := by
  induction bs with
  | nil => rfl
  | cons b bs ih =>
    have hsplit := reservedCount_append [b] bs
    rw [List.singleton_append] at hsplit
    rw [escape, List.length_append, length_stuff1, ih, hsplit, List.length_cons]
    omega

theorem reservedCount_le_length (bs : List Byte) : reservedCount bs ≤ bs.length := List.length_filter_le ..

/-- Settles O46: the layout gives the size, and R107 the bytes of the escaped part. -/
theorem builtFrameSize : Obligations.BuiltFrameSize := by
  intro ft fid fields hfit
  obtain ⟨hi, lo, -, hplain, hescaped⟩ := frameLayoutAndEscaping ft fid fields hfit
  have hlenPlain : (frame ft fid fields true).length = 2 + fields.length + 4 := by rw [hplain]; simp; omega
  have hlenEscaped : (frame ft fid fields false).length =
      2 + fields.length + 4 + reservedCount ((frame ft fid fields true).drop 1) := by
    rw [hplain, hescaped, List.length_append, length_escape]
    simp
    omega
  have hcount := reservedCount_le_length ((frame ft fid fields true).drop 1)
  rw [List.length_drop] at hcount
  refine ⟨hlenPlain, hlenEscaped, by omega, by omega, by omega, fun noesc => ?_, fun b hb => ?_⟩
  · cases noesc with
    | true => rw [hplain]; rfl
    | false => rw [hescaped]; rfl
  · rw [hescaped] at hb
    exact (escapeLeavesNoStructure _).1 b hb

/-! ## The assembly of a built frame (R175)

An escaped frame is assembled by O48. Where it is not escaped and no byte is the escape marker, each wire byte is
itself the byte the unstuffer emits. -/

theorem emits_plain {b : Byte} (h : b ≠ escByte) : Emits b false b false := .inr ⟨rfl, h, rfl, rfl⟩

/-- A byte before the checksum is gathered as it stands. -/
theorem Gathered.rxb_plain {r s : State} {bs : List Byte} {b : Byte} (h : Gathered r bs s) (hempty : s.rxState ≠ .empty)
    (hs : s.rxState ≠ .complete) (hck : s.rxState ≠ .awaitingChecksum) (hroom : s.bufFull = false)
    (hesc : s.rxEsc = false) (hb : b ≠ escByte) :
    ∃ t, (∀ rest, assemble (b :: rest) s = (assemble rest t).after []) ∧ Gathered r (bs ++ [b]) t ∧
      t.rxEsc = false := by
  obtain ⟨t, ht, hbuf, -, htesc, hfault, hfid, hok, -, -, -, -, hrest, -⟩ :=
    rxbInsideAFrameAppendsTheByte b b false s h.inv h.fault hempty hs hroom (hesc ▸ emits_plain hb)
  obtain ⟨-, hdone, hevents⟩ := hrest hck
  obtain ⟨hcfg, -, -⟩ := (execRxb_receiveFrame ht).around
  refine ⟨t, fun rest => ?_, ⟨execRxb_inv h.inv ht, ?_, hfault, hcfg.trans h.cfg, hfid.trans h.fidNext⟩, htesc⟩
  · rw [assemble_cons_onward ht hok (by simp [hdone]), hevents]
    rfl
  · exact hbuf.trans (write_bytes h.buffer h.rxCnt.symm b)

/-- The bytes of an unescaped frame up to its checksum are gathered, by induction on them. -/
theorem Gathered.assemble_plain {r s : State} {bs xs payload : List Byte} {hi lo c : Byte} (h : Gathered r bs s)
    (hesc : s.rxEsc = false) (hne : bs ≠ []) (hp : bs ++ xs <+: rawFrame hi lo payload c)
    (hlen : hi.toNat * 256 + lo.toNat = payload.length) (hpos : 1 ≤ payload.length)
    (hle : bs.length + xs.length ≤ payload.length + 3)
    (hcap : Capacity.holds r.cfg.rxCap (payload.length + 4) = true) (hxs : ∀ b ∈ xs, b ≠ escByte) :
    ∃ t, assemble xs s = ⟨t, false, xs.length, []⟩ ∧ Gathered r (bs ++ xs) t ∧ t.rxEsc = false := by
  induction xs generalizing bs s with
  | nil => exact ⟨s, rfl, by rwa [List.append_nil], hesc⟩
  | cons b xs ih =>
    rw [List.length_cons] at hle
    obtain ⟨hempty, hs, hck⟩ := h.inFrame ((List.prefix_append bs _).trans hp) hne hlen hpos (by omega)
    obtain ⟨u, hu, hgu, hescu⟩ :=
      h.rxb_plain hempty hs (fun hst => absurd (hck.1 hst) (by omega)) (h.room hcap (by omega)) hesc
        (hxs b List.mem_cons_self)
    rw [List.append_cons] at hp ⊢
    obtain ⟨t, ht, hgt, hesct⟩ :=
      ih hgu hescu (by simp) hp (by simp; omega) fun x hx => hxs x (List.mem_cons_of_mem b hx)
    refine ⟨t, ?_, hgt, hesct⟩
    rw [hu, ht]
    rfl

/-- The checksum byte of an unescaped frame completes it. -/
theorem Gathered.assemble_checksum_plain {r s : State} {bs payload : List Byte} {c : Byte} (h : Gathered r bs s)
    (hs : s.rxState = .awaitingChecksum) (hroom : s.bufFull = false) (hesc : s.rxEsc = false)
    (hlen : bs.length = payload.length + 3) (hpayload : bs.drop 3 = payload) (hc : c ≠ escByte) :
    ∃ q, assemble [c] s = ⟨q, true, 1, if c = cksum payload then [] else [.checksumMismatch (cksum payload) c]⟩ ∧
      Gathered r (bs ++ [c]) q ∧ q.rxState = .complete ∧ q.rxValid = decide (c = cksum payload) ∧ q.rxEsc = false := by
  obtain ⟨-, hn, -⟩ := h.inv.inAwaitingChecksum hs
  have hp : s.slice 3 s.rxCnt = some payload := by
    rw [h.rxCnt, slice_bytes h.buffer (by omega) le_rfl, hpayload, hlen, Nat.add_sub_cancel, List.take_length]
  have hx := execRxb_checksum h.fault hs hroom hn hp (hesc ▸ emits_plain hc)
  refine ⟨_, assemble_singleton hx rfl, ⟨execRxb_inv h.inv hx, ?_, h.fault, h.cfg, h.fidNext⟩, rfl, rfl, rfl⟩
  exact write_bytes h.buffer h.rxCnt.symm c

/-- The buffer is what `o_raw` shows. -/
theorem oRaw_of_bytes {s : State} {bs : List Byte} (hb : s.rxBuf = cellsFrom 0 bs) (hl : s.rxCnt = bs.length) :
    s.oRaw = some bs := by
  rw [State.oRaw, slice_bytes hb (Nat.zero_le _) hl.le, hl, Nat.sub_zero, List.drop_zero, List.take_length]

/-- An unescaped frame without an escape marker is assembled to its last byte. -/
theorem State.Clean.assemble_rawFrame {r : State} {hi lo c : Byte} {payload : List Byte} (hclean : r.Clean)
    (hpos : 1 ≤ payload.length) (hlen : hi.toNat * 256 + lo.toNat = payload.length)
    (hcap : Capacity.holds r.cfg.rxCap (payload.length + 4) = true)
    (hplain : ∀ b ∈ [hi, lo] ++ payload ++ [c], b ≠ escByte) :
    ∃ q, assemble (rawFrame hi lo payload c) r =
        ⟨q, true, (rawFrame hi lo payload c).length,
          if c = cksum payload then [] else [.checksumMismatch (cksum payload) c]⟩ ∧
      q.rxState = .complete ∧ q.rxValid = decide (c = cksum payload) ∧
      q.oRaw = some (rawFrame hi lo payload c) ∧ q.rxEsc = false := by
  obtain ⟨s, hs, hgs, hescs⟩ := hclean.assemble_delim
  obtain ⟨t, ht, hgt, hesct⟩ :=
    hgs.assemble_plain (xs := [hi, lo] ++ payload) (c := c) hescs nofun ⟨[c], by simp [rawFrame]⟩ hlen hpos
      (by simp; omega) hcap fun b hb => hplain b (List.mem_append_left _ hb)
  have hcount : ([0x7E] ++ ([hi, lo] ++ payload)).length = payload.length + 3 := by simp
  obtain ⟨-, -, hck⟩ := hgt.inFrame (c := c) ⟨[c], by simp [rawFrame]⟩ nofun hlen hpos (by omega)
  obtain ⟨q, hq, hgq, hcomplete, hvalid, hescq⟩ :=
    hgt.assemble_checksum_plain (hck.2 hcount) (hgt.room hcap (by omega)) hesct hcount rfl (hplain c (by simp))
  refine ⟨q, ?_, hcomplete, hvalid, oRaw_of_bytes hgq.buffer hgq.rxCnt, hescq⟩
  rw [rawFrame, List.append_assoc [0x7E], List.append_assoc [0x7E], assemble_append hs, assemble_append ht, hq]
  simp [Nat.add_comm]

/-- Both wire forms of a built frame are assembled to the unescaped frame. -/
theorem State.Clean.assemble_frame {r : State} {ft fid : Byte} {fs : List Byte} {noesc : Bool} (hclean : r.Clean)
    (hfit : 2 + fs.length ≤ 65535) (hcap : Capacity.holds r.cfg.rxCap (fs.length + 6) = true)
    (hplain : noesc = false ∨ ∀ b ∈ (unescapedFrame ([ft, fid] ++ fs)).drop 1, b ≠ 0x7D) :
    ∃ q, assemble (frame ft fid fs noesc) r = ⟨q, true, (frame ft fid fs noesc).length, []⟩ ∧
      q.rxState = .complete ∧ q.rxValid = true ∧ q.oRaw = some (unescapedFrame ([ft, fid] ++ fs)) ∧
      q.rxEsc = false := by
  obtain ⟨hi, lo, hlen, hraw, hescaped⟩ := frameLayoutAndEscaping ft fid fs hfit
  have hpayload : ([ft, fid] ++ fs).length = 2 + fs.length := by simp; omega
  have hcap' : Capacity.holds r.cfg.rxCap (([ft, fid] ++ fs).length + 4) = true := by simpa using hcap
  have hunescaped : unescapedFrame ([ft, fid] ++ fs) = rawFrame hi lo ([ft, fid] ++ fs) (cksum ([ft, fid] ++ fs)) :=
    hraw
  rw [hunescaped] at hplain ⊢
  cases noesc with
  | false =>
    obtain ⟨q, hq, hcomplete, hvalid, hrawq, hesc, -⟩ :=
      escapedFrameAssemblesWithAnyChecksum _ (cksum ([ft, fid] ++ fs)) hi lo r (by omega) (hlen.trans hpayload.symm)
        hclean hcap'
    refine ⟨q, ?_, hcomplete, by simpa using hvalid, hrawq, hesc⟩
    rw [hescaped, hq, if_pos rfl]
    simp [Nat.add_comm]
  | true =>
    obtain ⟨q, hq, hcomplete, hvalid, hrawq, hesc⟩ :=
      hclean.assemble_rawFrame (by omega) (hlen.trans hpayload.symm) hcap' (hplain.resolve_left nofun)
    refine ⟨q, ?_, hcomplete, by simpa using hvalid, hrawq, hesc⟩
    rw [hraw]
    rw [if_pos rfl] at hq
    exact hq

/-- ASSEMBLE keeps the register invariant. -/
theorem assemble_inv {s : State} (h : s.Inv) (bs : List Byte) : (assemble bs s).state.Inv := by
  induction bs generalizing s with
  | nil => exact h
  | cons b bs ih =>
    rw [assemble]
    cases hx : execRxb b s with
    | next t =>
      have ht := execRxb_inv h hx
      dsimp only
      split
      · exact ht
      · split
        · exact ht
        · exact ih ht
    | fault e => exact h
    | refused e => exact h

/-- What the outputs show of a complete frame, by its bytes (10_state.md R30). -/
theorem State.Inv.frame_outputs {q : State} {ft fid : Byte} {fs : List Byte} (h : q.Inv) (hs : q.rxState = .complete)
    (hraw : q.oRaw = some (unescapedFrame ([ft, fid] ++ fs))) :
    q.oLen.toNat = fs.length + 2 ∧ q.oFtype = some ft ∧ q.oFid = some fid ∧
      q.slice 5 (3 + q.oLen.toNat) = some fs := by
  obtain ⟨bs, hbuf, hcnt⟩ := h.bytes
  obtain rfl := Option.some.inj ((oRaw_of_bytes hbuf hcnt.symm).symm.trans hraw)
  have hlength : (unescapedFrame ([ft, fid] ++ fs)).length = fs.length + 6 := by simp [unescapedFrame, be16]
  obtain ⟨-, hn, -⟩ := h.inComplete hs
  have hlen : q.rxLen.toNat = fs.length + 2 := by omega
  refine ⟨hlen, ?_, ?_, ?_⟩
  · rw [State.oFtype, if_pos (by omega), hbuf, read_bytes]
    rfl
  · rw [State.oFid, if_pos (by omega), hbuf, read_bytes]
    rfl
  · have hwidth : 3 + (fs.length + 2) - 5 = fs.length := by omega
    rw [State.oLen, hlen, slice_bytes hbuf (by omega) (by omega), hwidth]
    simp [unescapedFrame, be16]

/-- Settles O47: what an accepted BUILD puts out is a frame, and ASSEMBLE gives it back. -/
theorem builtFrameAssemblesBack : Obligations.BuiltFrameAssemblesBack := by
  intro i ft d fs s t r w f hi hexec hw hf hclean hcap hplain
  have ht : t = build ft (.ok fs) d s := by
    rcases hi with ⟨rfl, rfl, hfs⟩ | ⟨rfl, rfl, hfs⟩ | ⟨rfl, rfl, hfs⟩ | ⟨rfl, rfl, hfs⟩ <;>
      exact hfs ▸ (Host.Outcome.next.inj hexec).symm
  rw [ht] at hw hf
  obtain ⟨hfit, rfl⟩ := build_txOut hw hf
  obtain ⟨q, hq, hcomplete, hvalid, hraw, hesc⟩ := hclean.assemble_frame hfit hcap hplain
  obtain ⟨-, -, -, hrInv⟩ := hclean
  have hinv : (assemble (frame ft f fs d.noesc) r).state.Inv := assemble_inv hrInv _
  rw [hq] at hinv
  obtain ⟨hlen, hftype, hfid, hfields⟩ := hinv.frame_outputs hcomplete hraw
  exact ⟨q, hq, hcomplete, hvalid, hraw, hlen, hftype, hfid, hfields, hesc⟩

end Sys2Proof.Machine

/-! The family 44_control.md: the way back from a key to the instruction it decodes to, what a step performs, and the
control operations NOP, RXCLR, FIDRST and the illegal codes. -/

namespace Sys2Proof.Machine

/-! ## From a key to its instruction and back (R204) -/

/-- Every assembler key is `{rx_state, e, c}` (R68): below the state code it has the form of an unstuffer key. -/
theorem exists_a12Key (k : BitVec 12) : ∃ code e c, k = a12Key code e c := by
  obtain ⟨e, c, hlow⟩ := exists_u9Key (k.extractLsb' 0 9)
  have hsplit : k.extractLsb' 9 3 ++ k.extractLsb' 0 9 = k :=
    BitVec.extractLsb'_append_extractLsb' (w := 3) (len := 9)
  exact ⟨k.extractLsb' 9 3, e, c, hsplit.symm.trans (congrArg (k.extractLsb' 9 3 ++ ·) hlow)⟩

/-- No instruction has a key with the state codes 5, 6 and 7 (R68). -/
theorem decodeA12_ne_ok {code : BitVec 3} (h : 5 ≤ code.toNat) (e : Bool) (c : Byte) (i : Instr) :
    decodeA12 (a12Key code e c) ≠ .ok i := by
  obtain ⟨x, hx⟩ := (decodeA12_error_iff (a12Key code e c)).2 ((a12Key_state code e c).symm ▸ h)
  rw [hx]
  nofun

/-- The rows other than the four that take a descriptor (R66). -/
def TakesNoDescriptor (r : RowName) : Prop :=
  r ≠ .buildLocal ∧ r ≠ .buildLocalq ∧ r ≠ .buildTx ∧ r ≠ .buildRemote

/-- An admitted BUILD keeps its descriptor; BUILD.other, the remainder, drops it (R61). -/
theorem encode_decodeBuild (ft : Byte) (d : Descriptor) :
    (decodeBuild ft d).WellFormed = true ∧
      (encode (decodeBuild ft d) = .op11 (opWord 4 ft) d ∨
        encode (decodeBuild ft d) = .op11 (opWord 4 ft) .absent ∧ TakesNoDescriptor (decodeBuild ft d).row) := by
  rcases frameType_cases ft with rfl | rfl | rfl | rfl | hft
  · exact ⟨rfl, .inl rfl⟩
  · exact ⟨rfl, .inl rfl⟩
  · exact ⟨rfl, .inl rfl⟩
  · exact ⟨rfl, .inl rfl⟩
  · have hwf : wfBuildOther ft = true := congrArg (!·) hft
    rw [decodeBuild_other hft]
    exact ⟨hwf, .inr ⟨rfl, nofun, nofun, nofun, nofun⟩⟩

/-- By the operation code: only code 4 looks at the descriptor. -/
theorem encode_decodeOp11 (w : BitVec 11) (d : Descriptor) :
    (decodeOp11 w d).WellFormed = true ∧
      (encode (decodeOp11 w d) = .op11 w d ∨
        encode (decodeOp11 w d) = .op11 w .absent ∧ TakesNoDescriptor (decodeOp11 w d).row) := by
  obtain ⟨op, imm, rfl⟩ := exists_opWord w
  rw [decodeOp11_opWord]
  rcases code_cases op with rfl | rfl | rfl | rfl | rfl | rfl | rfl | rfl
  case inr.inr.inr.inr.inl => exact encode_decodeBuild imm d -- code 4
  all_goals exact ⟨rfl, .inr ⟨rfl, nofun, nofun, nofun, nofun⟩⟩

/-- By the flag, then by the byte. -/
theorem encode_decodeU9 (k : BitVec 9) : (decodeU9 k).WellFormed = true ∧ encode (decodeU9 k) = .u9 k := by
  obtain ⟨esc, b, rfl⟩ := exists_u9Key k
  rw [decodeU9_u9Key]
  cases esc with
  | true => exact ⟨rfl, rfl⟩
  | false =>
    by_cases hb : b = escByte
    · subst hb
      exact ⟨rfl, rfl⟩
    · have hwf : wfUnescPass b = true := bne_iff_ne.2 hb
      rw [if_neg hb]
      exact ⟨hwf, rfl⟩

/-- A reserved byte has its own row, any other is STUFF.PASS. -/
theorem encode_decodeS8 (b : BitVec 8) : (decodeS8 b).WellFormed = true ∧ encode (decodeS8 b) = .s8 b := by
  cases hb : isReserved b with
  | true =>
    rcases isReserved_eq_true.1 hb with rfl | rfl | rfl | rfl <;> exact ⟨rfl, rfl⟩
  | false =>
    have hwf : wfStuffPass b = true := congrArg (!·) hb
    rw [decodeS8_pass hb]
    exact ⟨hwf, rfl⟩

/-- In Empty: ASM.START has one input, and ASM.DROP is left every other. -/
theorem encode_decodeA12_empty {e : Bool} {c : Byte} {i : Instr} (h : decodeA12 (a12Key 0 e c) = .ok i) :
    i.WellFormed = true ∧ encode i = .a12 (a12Key 0 e c) := by
  rw [decodeA12_empty] at h
  by_cases hstart : c = delim ∧ e = false
  · rw [if_pos hstart] at h
    obtain ⟨rfl, rfl⟩ := hstart
    cases h
    exact ⟨rfl, rfl⟩
  · rw [if_neg hstart] at h
    cases h
    have hwf : wfAsmDrop e c = true := by
      cases e with
      | true => rfl
      | false => exact bne_iff_ne.2 fun hc => hstart ⟨hc, rfl⟩
    exact ⟨hwf, rfl⟩

/-- By the state code: outside Empty a state has one row, and the codes 5, 6 and 7 have none. -/
theorem encode_decodeA12 {k : BitVec 12} {i : Instr} (h : decodeA12 k = .ok i) :
    i.WellFormed = true ∧ encode i = .a12 k := by
  obtain ⟨code, e, c, rfl⟩ := exists_a12Key k
  rcases code_cases code with rfl | rfl | rfl | rfl | rfl | rfl | rfl | rfl
  · exact encode_decodeA12_empty h
  · cases (decodeA12_length e c).symm.trans h; exact ⟨rfl, rfl⟩
  · cases (decodeA12_body e c).symm.trans h; exact ⟨rfl, rfl⟩
  · cases (decodeA12_checksum e c).symm.trans h; exact ⟨rfl, rfl⟩
  · cases (decodeA12_complete e c).symm.trans h; exact ⟨rfl, rfl⟩
  · exact absurd h (decodeA12_ne_ok (by decide) e c i)
  · exact absurd h (decodeA12_ne_ok (by decide) e c i)
  · exact absurd h (decodeA12_ne_ok (by decide) e c i)

/-- Settles O2, format by format. -/
theorem decodedKeyEncodesBack : Obligations.DecodedKeyEncodesBack := by
  intro k i h
  cases k with
  | op11 w d =>
    cases h
    obtain ⟨hwf, hkept | hdropped⟩ := encode_decodeOp11 w d
    · exact ⟨hwf, .inl hkept⟩
    · exact ⟨hwf, .inr ⟨w, d, rfl, hdropped⟩⟩
  | u9 k =>
    cases h
    obtain ⟨hwf, henc⟩ := encode_decodeU9 k
    exact ⟨hwf, .inl henc⟩
  | s8 b =>
    cases h
    obtain ⟨hwf, henc⟩ := encode_decodeS8 b
    exact ⟨hwf, .inl henc⟩
  | a12 k =>
    obtain ⟨hwf, henc⟩ := encode_decodeA12 h
    exact ⟨hwf, .inl henc⟩

/-! ## What a step performs (R204) -/

/-- Where nothing is presented the block fetches the word of NOP (R200; log 2). -/
theorem fetch_nothing {s : State} (h : s.port = []) : fetch s = .operation 0 .absent s := by
  rw [fetch, h]

/-- Without reset the oldest presentation is fetched, and taken off the port (log 1). -/
theorem fetch_presented {s : State} {p : Presented} {rest : List Presented} (h : s.port = p :: rest)
    (hrst : p.rst = false) : fetch s = .operation p.word p.desc { s with port := rest } := by
  rw [fetch, h]
  exact if_neg (Bool.eq_false_iff.1 hrst)

/-- After the first reset a step performs the operation it fetched (R251). -/
theorem step_operation {s t : State} {w : BitVec 11} {d : Descriptor} (hreset : s.hasReset = true)
    (h : fetch s = .operation w d t) : step s = exec (decodeOp11 w d) t := by
  rw [step, h]
  exact if_pos hreset

/-- Settles O6. -/
theorem stepPerformsThePresentedOperation : Obligations.StepPerformsThePresentedOperation :=
  fun _ _ _ hreset hport hrst => step_operation hreset (fetch_presented hport hrst)

/-- Settles O9: the word 0 is NOP with the immediate 0. -/
theorem nothingPresentedActsAsNop : Obligations.NothingPresentedActsAsNop := by
  intro s hreset hport
  have hnop : decodeOp11 0 .absent = .nop 0 := decodeOp11_opWord 0 0 .absent
  rw [step_operation hreset (fetch_nothing hport), hnop]

/-! ## The control operations -/

/-- What an operation word decodes to, through the decoder of every format. -/
theorem decode_opWord {op : BitVec 3} {imm : Byte} {d : Descriptor} {i : Instr}
    (h : decodeOp11 (opWord op imm) d = i) : decode (.op11 (opWord op imm) d) = .ok i :=
  congrArg Except.ok h

/-- Settles O14: NOP writes the outputs only, through `okOut`. -/
theorem nopOnlyReportsOk : Obligations.NopOnlyReportsOk :=
  fun imm d _ => ⟨decode_opWord (decodeOp11_opWord 0 imm d), rfl⟩

/-- Settles O15: RXCLR is `clearFrame` with status OK, and an empty buffer has no byte to read. -/
theorem rxclrDiscardsTheFrame : Obligations.RxclrDiscardsTheFrame :=
  fun imm d s => ⟨decode_opWord (decodeOp11_opWord 2 imm d), s.clearFrame.okOut, rfl, rfl, Memory.read_nil, rfl⟩

/-- Settles O16: a draw answers the generator's value, which is then 1. -/
theorem fidrstRestartsTheGenerator : Obligations.FidrstRestartsTheGenerator := by
  refine fun imm w s => ⟨decode_opWord (decodeOp11_opWord 5 imm w), { s.okOut with fidNext := 1 }, rfl, rfl, ?_⟩
  intro d hdraw
  rw [chooseFid, hdraw]
  rfl

/-- Settles O17: both codes are the one ILLEGAL row, a refusal. -/
theorem illegalCodesAreRefused : Obligations.IllegalCodesAreRefused := by
  intro seven imm d s
  refine ⟨decode_opWord ?_, rfl, rfl⟩
  cases seven with
  | false => exact decodeOp11_opWord 6 imm d
  | true => exact decodeOp11_opWord 7 imm d

end Sys2Proof.Machine

/-! The family 60_exceptions.md: the ways in which an operation of the port ends, said once, and that under the register
invariant every operation ends in one of them. -/

namespace Sys2Proof.Machine

/-! ## The ways an operation ends (R210, R212) -/

/-- How an operation of the port that leads from `s` to `t` ended. -/
inductive OperationEnd (s t : State) : Prop where
  /-- Performed without an event. -/
  | quiet (hok : t.out.status = some .ok) (hev : t.out.events = none ∨ t.out.events = some [])
  /-- Performed with a byte dropped in Empty (R132). -/
  | dropped (c : Byte) (e : Bool) (hok : t.out.status = some .ok) (hev : t.out.events = some [.malformedStart c e])
      (hs : s.rxState = .empty) (ht : t.rxState = .empty)
  /-- Performed with a frame completed that is not valid (R135). -/
  | mismatched (x y : Byte) (hok : t.out.status = some .ok) (hev : t.out.events = some [.checksumMismatch x y])
      (hs : t.rxState = .complete) (hv : t.rxValid = false)
  /-- Refused. -/
  | refused (x : Status) (hx : x ≠ .ok) (ht : t = s.refuse x)
  /-- The fault RxOverflow. -/
  | faulted (hf : s.rxFault = false) (ht : t = s.overflow)

/-- The assembler's part of RXB, where RXB has neither refused the byte nor found the buffer full for it (R130). -/
theorem AsmNext.operationEnd {c : Byte} {e : Bool} {o : Option (Byte × Bool)} {esc : Bool} {s t : State}
    (h : AsmNext c e (s.okOut.unstuffed o esc) t) (hroom : s.rxState ≠ .empty → s.bufFull = false)
    (hcomplete : s.rxState ≠ .complete) : OperationEnd s t := by
  cases h with
  | start _ ht | gather _ _ ht | parse _ _ _ _ _ ht | last _ _ _ ht => subst ht; exact .quiet rfl (.inr rfl)
  | drop hs ht => subst ht; exact .dropped c e rfl rfl hs hs
  | full hf he => exact nomatch hf.symm.trans (hroom he)
  | complete p payload _ _ _ _ ht =>
    subst ht
    cases hv : valid p with
    | true => exact .quiet rfl (.inr rfl)
    | false => exact .mismatched (cksum payload) c rfl rfl rfl rfl
  | hold hs => exact absurd hs hcomplete

/-- Every way RXB ends (R130, R139). -/
theorem execRxb_operationEnd {b : Byte} {s t : State} (h : execRxb b s = .next t) : OperationEnd s t := by
  rcases execRxb_next h with
    ⟨-, ht⟩ | ⟨-, -, ht⟩ | ⟨hf, -, -, -, ht⟩ | ⟨-, -, -, rfl⟩ | ⟨c, e, -, hcomplete, hroom, -, ha⟩
  · exact .refused .rxOverflow nofun ht
  · exact .refused .rxBusy nofun ht
  · exact .faulted hf ht
  · exact .quiet rfl (.inr rfl)
  · exact ha.operationEnd hroom hcomplete

/-- Fields that end with the parameter are refused with the parameter's code, which is not OK (R163). -/
theorem fields_error_ne_ok {d : Descriptor} {fields : Except Status (List Byte)} {pre : List Byte} {x : Status}
    (hok : ∀ p, param d = .ok p → fields = .ok (pre ++ p)) (herr : ∀ x, param d = .error x → fields = .error x)
    (h : fields = .error x) : x ≠ .ok := by
  cases hp : param d with
  | ok p => exact nomatch (hok p hp).symm.trans h
  | error y =>
    cases (herr y hp).symm.trans h
    rw [param_error hp]
    nofun

/-- BUILD.TX has no parameter; its fields are refused for a missing one only (R172). -/
theorem fieldsTx_error_ne_ok {d : Descriptor} {x : Status} (h : fieldsTx d = .error x) : x ≠ .ok := by
  unfold fieldsTx at h
  split at h <;> cases h
  nofun

/-- A BUILD is accepted with OK, or refused for its fields or their length (R164, R166). -/
theorem build_operationEnd (ft : Byte) {fields : Except Status (List Byte)} (d : Descriptor) (s : State)
    (hfields : ∀ x, fields = .error x → x ≠ .ok) : OperationEnd s (build ft fields d s) := by
  rcases build_cases ft fields d s with ⟨x, hx, hb⟩ | ⟨fs, -, -, hb⟩ | ⟨fs, -, -, hb⟩
  · exact .refused x (hfields x hx) hb
  · exact .refused .buildTooLong nofun hb
  · rw [hb]; exact .quiet rfl (.inl rfl)

/-- Every operation of the port ends in one of these ways (R210). -/
theorem exec_operationEnd {i : Instr} {s t : State} (hi : i.isOperation = true) (h : exec i s = .next t) :
    OperationEnd s t := by
  cases i with
  | nop imm => cases h; exact .quiet rfl (.inl rfl)
  | rxb b => exact execRxb_operationEnd h
  | rxclr imm => cases h; exact .quiet rfl (.inl rfl)
  | stuff b => cases (execStuff_eq b s).symm.trans h; exact .quiet rfl (.inl rfl)
  | buildLocal d =>
    cases h
    exact build_operationEnd _ d s fun _ => fields_error_ne_ok (fun _ => fieldsLocal_ok) fun _ => fieldsLocal_error
  | buildLocalq d =>
    cases h
    exact build_operationEnd _ d s fun _ => fields_error_ne_ok (fun _ => fieldsLocal_ok) fun _ => fieldsLocal_error
  | buildTx d => cases h; exact build_operationEnd _ d s fun _ => fieldsTx_error_ne_ok
  | buildRemote d =>
    cases h
    exact build_operationEnd _ d s fun _ => fields_error_ne_ok (fun _ => fieldsRemote_ok) fun _ => fieldsRemote_error
  | buildOther ft => exact .refused .unsupportedVariant nofun (execBuildOther_next h)
  | fidrst imm => cases h; exact .quiet rfl (.inl rfl)
  | illegal seven imm => cases h; exact .refused .illegalOp nofun rfl
  | _ => cases hi

/-- Settles O36: three of the five ways are performed with OK. -/
theorem refusedOperationChangesNothing : Obligations.RefusedOperationChangesNothing := by
  intro i s t hi h
  cases exec_operationEnd hi h with
  | quiet hok | dropped _ _ hok | mismatched _ _ hok => exact .inl hok
  | refused x hx ht => exact .inr (.inl ⟨x, hx, ht⟩)
  | faulted hf ht => exact .inr (.inr ⟨hf, ht⟩)

/-- Settles O37: each way fixes the events, so what another event would need is vacuous there. -/
theorem atMostOneEventAndNoneWithARefusal : Obligations.AtMostOneEventAndNoneWithARefusal := by
  intro i s t hi h
  cases exec_operationEnd hi h with
  | quiet hok hev => rcases hev with hev | hev <;> simp [hev, hok]
  | dropped c e hok hev hs ht => simp [hev, hok, hs, ht]
  | mismatched x y hok hev hs hv => simp [hev, hok, hs, hv]
  | refused x _ ht => simp [ht]
  | faulted _ ht => simp [ht]

/-! ## Every presentation is answered (R237) -/

/-- The assembler's row on an emitted byte: on a full buffer it overflows, and where there is room the invariant gives a
value to the bytes it reads and rules out the case for which R135 has no row. -/
theorem State.Inv.stepAssembler_answers {v : State} (h : v.Inv) (c : Byte) (e : Bool) :
    ∃ t, stepAssembler (some (c, e)) v = .next t := by
  cases hs : v.rxState with
  | empty =>
    rw [stepAssembler_empty hs]
    by_cases hstart : c = delim ∧ e = false
    · exact ⟨_, (if_pos hstart).trans (if_pos hs)⟩
    · exact ⟨_, (if_neg hstart).trans (if_pos ⟨hs, hstart⟩)⟩
  | awaitingLength =>
    rw [stepAssembler_awaitingLength hs]
    cases hf : v.bufFull with
    | true => exact ⟨_, execAsmLen_full hs hf e c⟩
    | false =>
      by_cases h3 : v.rxCnt + 1 = 3
      · obtain ⟨hi, hhi⟩ := Option.isSome_iff_exists.1 ((h.read_isSome 1).2 (by omega))
        exact ⟨_, execAsmLen_parse hs hf (Nat.succ.inj h3) hhi e c⟩
      · exact ⟨_, execAsmLen_gather hs hf h3 e c⟩
  | awaitingBody =>
    rw [stepAssembler_awaitingBody hs]
    cases hf : v.bufFull with
    | true => exact ⟨_, execAsmBody_full hs hf e c⟩
    | false => exact ⟨_, execAsmBody_room hs hf e c⟩
  | awaitingChecksum =>
    rw [stepAssembler_awaitingChecksum hs]
    cases hf : v.bufFull with
    | true => exact ⟨_, execAsmCksum_full hs hf e c⟩
    | false =>
      obtain ⟨hn, p, hp, -⟩ := h.payload hs
      exact ⟨_, execAsmCksum_room hs hf hn hp e c⟩
  | complete =>
    rw [stepAssembler_some, hs]
    exact ⟨_, if_pos hs⟩

/-- RXB answers: it refuses, faults, takes a marker or goes on to the assembler (R130). -/
theorem State.Inv.execRxb_answers {s : State} (h : s.Inv) (b : Byte) : ∃ t, execRxb b s = .next t := by
  rcases execRxb_cases b s with ⟨-, k⟩ | ⟨-, -, k⟩ | ⟨-, -, -, k⟩ | ⟨-, hcomplete, -, k⟩
  · exact ⟨_, k⟩
  · exact ⟨_, k⟩
  · exact ⟨_, k⟩
  · have hv := (h.withOut { status := some .ok }).unstuffed hcomplete (unesc b s.rxEsc).1 (unesc b s.rxEsc).2
    rw [k]
    generalize (unesc b s.rxEsc).1 = emitted at hv ⊢
    cases emitted with
    | none => exact ⟨_, rfl⟩
    | some ce => exact hv.stepAssembler_answers ce.1 ce.2

/-- An operation word decodes to an operation, never to a micro-operation (R60, R61). -/
theorem isOperation_decodeOp11 (w : BitVec 11) (d : Descriptor) : (decodeOp11 w d).isOperation = true := by
  obtain ⟨op, imm, rfl⟩ := exists_opWord w
  rw [decodeOp11_opWord, decodeBuild]
  split_ifs <;> rfl

/-- A well-formed operation answers: only RXB needs the invariant (R204). -/
theorem State.Inv.exec_answers {i : Instr} {s : State} (h : s.Inv) (hi : i.isOperation = true)
    (hwf : i.WellFormed = true) : ∃ t, exec i s = .next t := by
  by_cases hx : isTransmit i = true
  · obtain ⟨w, hw⟩ := exec_transmitOnly hx hwf
    exact ⟨_, hw s⟩
  · cases i with
    | rxb b => exact h.execRxb_answers b
    | nop imm => exact ⟨_, rfl⟩
    | rxclr imm => exact ⟨_, rfl⟩
    | illegal seven imm => exact ⟨_, rfl⟩
    | stuff | buildLocal | buildLocalq | buildTx | buildRemote | buildOther | fidrst => exact absurd rfl hx
    | _ => cases hi

/-- What an operation word decodes to is well formed, so it answers. -/
theorem State.Inv.decodeOp11_answers {s : State} (h : s.Inv) (w : BitVec 11) (d : Descriptor) :
    ∃ t, exec (decodeOp11 w d) s = .next t :=
  h.exec_answers (isOperation_decodeOp11 w d) (encode_decodeOp11 w d).1

/-- A presentation with reset is fetched as the reset, and taken off the port (R250; log 1). -/
theorem fetch_reset {s : State} {p : Presented} {rest : List Presented} (h : s.port = p :: rest)
    (hrst : p.rst = true) : fetch s = .reset { s with port := rest } := by
  rw [fetch, h]
  exact if_pos hrst

/-- Reset is available in every state (R250). -/
theorem step_reset {s : State} {p : Presented} {rest : List Presented} (hport : s.port = p :: rest)
    (hrst : p.rst = true) : step s = .next (State.takeReset { s with port := rest }) := by
  rw [step, fetch_reset hport hrst]

/-- Settles O13, by what is presented: nothing, a reset, or an operation word. -/
theorem everyPresentationIsAnswered : Obligations.EveryPresentationIsAnswered := by
  intro s h hreset
  cases hport : s.port with
  | nil =>
    rw [step_operation hreset (fetch_nothing hport)]
    exact h.decodeOp11_answers _ _
  | cons p rest =>
    cases hrst : p.rst with
    | true => exact ⟨_, step_reset hport hrst⟩
    | false =>
      rw [step_operation hreset (fetch_presented hport hrst)]
      exact (h.withPort rest).decodeOp11_answers _ _

end Sys2Proof.Machine

/-! The family 70_reset_and_hazards.md: no step before the first reset, `rx_fault` that only reset clears, and the trap of a
declared length of 0. -/

namespace Sys2Proof.Machine

/-! ## Before the first reset (R251) -/

/-- Where reset is not presented an operation is fetched, that of nothing included (R60, R200). -/
theorem exists_fetch_operation {s : State} (h : ∀ p ∈ s.port.head?, p.rst = false) :
    ∃ w d t, fetch s = .operation w d t := by
  cases hport : s.port with
  | nil => exact ⟨_, _, _, fetch_nothing hport⟩
  | cons p rest => exact ⟨_, _, _, fetch_presented hport (h p (by rw [hport]; rfl))⟩

/-- Before the first reset a fetched operation is not performed (R251). -/
theorem step_beforeReset {s t : State} {w : BitVec 11} {d : Descriptor} (hreset : s.hasReset = false)
    (h : fetch s = .operation w d t) : step s = .fault .beforeReset := by
  rw [step, h]
  exact if_neg (Bool.eq_false_iff.1 hreset)

/-- Settles O10. -/
theorem noStepBeforeTheFirstReset : Obligations.NoStepBeforeTheFirstReset := by
  intro s hreset hport
  obtain ⟨w, d, t, hfetch⟩ := exists_fetch_operation hport
  exact step_beforeReset hreset hfetch

/-! ## What clears `rx_fault` (R250, R217) -/

/-- An assembler row leaves `rx_fault` alone or sets it. -/
theorem AsmNext.keeps_rxFault {c : Byte} {e : Bool} {v t : State} (h : AsmNext c e v t) (hf : v.rxFault = true) :
    t.rxFault = true := by
  cases h with
  | full _ _ _ ht => subst ht; rfl
  | start _ ht | drop _ ht | gather _ _ ht | parse _ _ _ _ _ ht | last _ _ _ ht | complete _ _ _ _ _ _ ht
  | hold _ ht => subst ht; exact hf

/-- No instruction clears `rx_fault`: RXCLR keeps it, and a faulted RXB is refused (R202, R139). -/
theorem exec_keeps_rxFault {i : Instr} {s t : State} (h : exec i s = .next t) (hf : s.rxFault = true) :
    t.rxFault = true := by
  cases exec_next h with
  | quiet _ hq =>
    obtain ⟨-, -, -, -, -, -, hsame⟩ := hq.sameReceive
    exact hsame.trans hf
  | clear _ ht => subst ht; exact hf
  | receive b _ hr => cases (execRxb_faulted hf b).symm.trans hr; exact hf
  | unstuffer o esc _ ht => subst ht; exact hf
  | assembler c e _ ha => exact ha.keeps_rxFault hf

/-- A step in which reset is not presented performs an instruction. -/
theorem step_keeps_rxFault {s t : State} (h : step s = .next t) (hport : ∀ p ∈ s.port.head?, p.rst = false)
    (hf : s.rxFault = true) : t.rxFault = true := by
  rcases step_cases h with ⟨p, rest, hp, hrst, -⟩ | ⟨w, d, -, ⟨-, -, -, hx⟩ | ⟨p, rest, -, -, -, -, hx⟩⟩
  · exact nomatch (hport p (by rw [hp]; rfl)).symm.trans hrst
  · exact exec_keeps_rxFault hx hf
  · exact exec_keeps_rxFault hx hf

/-- Settles O7: the reset state with the parameter and the rest of the port, and that no instruction clears the fault. -/
theorem resetOverridesThePresentedOperation : Obligations.ResetOverridesThePresentedOperation :=
  ⟨fun _ _ _ hport hrst => step_reset hport hrst, fun _ _ h hf hport => step_keeps_rxFault h hport hf⟩

/-! ## A declared length of 0 (R262) -/

/-- With `rx_len = 0` the count is past `rx_len + 3` after any append, so the assembler only gathers. -/
theorem AsmNext.eq_gathered {c : Byte} {e : Bool} {v t : State} (h : AsmNext c e v t) (hs : v.rxState = .awaitingBody)
    (hlen : v.rxLen = 0) (hcnt : 3 ≤ v.rxCnt) (hroom : v.bufFull = false) : t = (v.append c).report false [] := by
  cases h with
  | gather _ _ ht => exact ht
  | full hfull => exact nomatch hfull.symm.trans hroom
  | last _ _ h3 =>
    have hzero : v.rxLen.toNat = 0 := congrArg BitVec.toNat hlen
    omega
  | start hs' | drop hs' | parse _ hs' | complete _ _ hs' | hold hs' => exact nomatch hs.symm.trans hs'

/-- However RXB answers, the trap holds: a refusal and the fault have no `done`, a marker and a gathered byte `done = 0`. -/
theorem execRxb_trapped {b : Byte} {s t : State} (h : execRxb b s = .next t) (hs : s.rxState = .awaitingBody)
    (hlen : s.rxLen = 0) (hcnt : 3 ≤ s.rxCnt) :
    t.rxState = .awaitingBody ∧ t.rxLen = 0 ∧ t.out.done ≠ some true := by
  rcases execRxb_next h with
    ⟨-, rfl⟩ | ⟨-, hcomplete, -⟩ | ⟨-, -, -, -, rfl⟩ | ⟨-, -, -, rfl⟩ | ⟨c, e, -, -, hroom, -, ha⟩
  · exact ⟨hs, hlen, nofun⟩
  · exact nomatch hs.symm.trans hcomplete
  · exact ⟨hs, hlen, nofun⟩
  · exact ⟨hs, hlen, nofun⟩
  · cases ha.eq_gathered hs hlen hcnt (hroom (by rw [hs]; nofun))
    exact ⟨hs, hlen, nofun⟩

/-- Settles O34: the invariant gives the count of at least 3 and the answer; what an emitted byte does to the count is what
it does in any frame. -/
theorem zeroLengthFrameNeverCompletes : Obligations.ZeroLengthFrameNeverCompletes := by
  intro b s h hs hlen
  obtain ⟨hcnt, -⟩ := h.inAwaitingBody hs
  obtain ⟨t, ht⟩ := h.execRxb_answers b
  obtain ⟨hstate, hzero, hdone⟩ := execRxb_trapped ht hs hlen hcnt
  refine ⟨t, ht, hstate, hzero, hdone, fun hf hroom c e hemits => ?_⟩
  obtain ⟨t', ht', -, hcount, -⟩ :=
    rxbInsideAFrameAppendsTheByte b c e s h hf (by rw [hs]; nofun) (by rw [hs]; nofun) hroom hemits
  cases ht.symm.trans ht'
  exact hcount

end Sys2Proof.Machine
